-- ==== Sys2Proof/Word.lean ====
section
/-! DEFINITION. The fixed-width values of the engine: bytes, bus words, and the cells that hold the words of the
cipher. Arithmetic on them is in Machine/Operands.lean. -/

namespace Sys2Proof

/-- One byte of a window (spec/10_state.md R32). -/
abbrev Byte := BitVec 8

/-- A 32-bit register value, bus data or command word (spec/10_state.md R22, spec/30_encoding.md R90). -/
abbrev Word32 := BitVec 32

/-- A register cell that holds one word of the cipher: P, Q, SOUT, an entry of S or of L, a working word. The spec's
cells are WMAX bits wide and WMAX is at most 256 (spec/00_scope.md R7); bits at and above WMAX are 0 (assumption 11). -/
abbrev Word := BitVec 256

end Sys2Proof
end

