-- ==== Sys2Proof/Syntax.lean ====
section
/-! DEFINITION. The nine commands of the engine, one constructor per row of spec/opcode_table.json
(spec/30_encoding.md R95). Operands are the unsigned integers of R94. -/

namespace Sys2Proof

/-- A command of the engine. Whether its operands fit their fields is `Instr.wellFormed`. -/
inductive Instr where
  /-- NOP (spec/44_control.md R203). -/
  | nop
  /-- CFG WB, RR: word width in bytes and round count (spec/44_control.md R204). -/
  | cfg (wb rr : Nat)
  /-- GENPQ (spec/41_magic.md R143). -/
  | genpq
  /-- KEYSCHED (spec/42_keysched.md R160). -/
  | keysched
  /-- ENC (spec/43_round.md R180). -/
  | enc
  /-- DEC (spec/43_round.md R184). -/
  | dec
  /-- RDS IDX: index into the expanded key table (spec/44_control.md R206). -/
  | rds (idx : Nat)
  /-- ZEROIZE (spec/44_control.md R207). -/
  | zeroize
  /-- CLRERR (spec/44_control.md R210). -/
  | clrerr
deriving DecidableEq, Repr

/-- The mnemonic of a command, as spec/opcode_table.json spells it. -/
def Instr.mnemonic : Instr → String
  | .nop => "NOP"
  | .cfg _ _ => "CFG"
  | .genpq => "GENPQ"
  | .keysched => "KEYSCHED"
  | .enc => "ENC"
  | .dec => "DEC"
  | .rds _ => "RDS"
  | .zeroize => "ZEROIZE"
  | .clrerr => "CLRERR"

end Sys2Proof
end

