-- ==== Sys2Proof/WellFormed.lean ====
section
/-! DEFINITION. Which terms of `Instr` are commands: the operands fit their fields. The assembler refuses any other
(spec/30_encoding.md R99: WB or R above 255, IDX above 511). Whether an operand that fits its field is in range for the
machine is no matter of form: that is BAD_CONFIG and BAD_INDEX (R97). -/

namespace Sys2Proof

/-- Every operand fits the field its format gives it (spec/30_encoding.md R92, R93, R99). -/
def Instr.wellFormed : Instr → Bool
  | .nop => true
  | .cfg wb rr => decide (wb < 256) && decide (rr < 256)
  | .genpq => true
  | .keysched => true
  | .enc => true
  | .dec => true
  | .rds idx => decide (idx < 512)
  | .zeroize => true
  | .clrerr => true

end Sys2Proof
end

