-- ==== Sys2Proof/Decode.lean ====
section
/-! DEFINITION. The command decoder (spec/30_encoding.md R90 to R98), total on every 32-bit word and refusing by name,
the encoder written from the same formats, and the opcode map of R95 as a table of masks and patterns. -/

namespace Sys2Proof

/-- Why a command word is illegal (spec/30_encoding.md R97). -/
inductive DecodeReject where
  /-- OP is 0x09 to 0xFF. -/
  | reservedOpcode
  /-- OP is in the map, and a must-be-zero bit of its format is 1. -/
  | mbzBitSet
deriving DecidableEq, Repr

/-- `c[hi:lo]`, the integer formed by bits hi down to lo (spec/00_scope.md R9). -/
def cmdField (c : Word32) (hi lo : Nat) : Nat := (c.toNat / 2 ^ lo) % 2 ^ (hi - lo + 1)

/-- A format whose must-be-zero bits are `c[31:lo]` (spec/30_encoding.md R91 to R93). -/
def ifMbzClear (c : Word32) (lo : Nat) (i : Instr) : Except DecodeReject Instr :=
  if cmdField c 31 lo = 0 then .ok i else .error .mbzBitSet

/-- The decoder of spec/30_encoding.md R96: the opcode is `c[7:0]`, and the bits outside the operand fields of its
format must be 0. -/
def decode (c : Word32) : Except DecodeReject Instr :=
  match cmdField c 7 0 with
  | 0x00 => ifMbzClear c 8 .nop
  | 0x01 => ifMbzClear c 24 (.cfg (cmdField c 15 8) (cmdField c 23 16))
  | 0x02 => ifMbzClear c 8 .genpq
  | 0x03 => ifMbzClear c 8 .keysched
  | 0x04 => ifMbzClear c 8 .enc
  | 0x05 => ifMbzClear c 8 .dec
  | 0x06 => ifMbzClear c 17 (.rds (cmdField c 16 8))
  | 0x07 => ifMbzClear c 8 .zeroize
  | 0x08 => ifMbzClear c 8 .clrerr
  | _ => .error .reservedOpcode

/-- The encoder: formats N, C and I of spec/30_encoding.md R91 to R93, as R99 writes them:
`cfg WB, R` is `(R << 16) | (WB << 8) | 0x01` and `rds IDX` is `(IDX << 8) | 0x06`. -/
def encode : Instr → Word32
  | .nop => 0x00
  | .cfg wb rr => BitVec.ofNat 32 (rr * 2 ^ 16 + wb * 2 ^ 8 + 0x01)
  | .genpq => 0x02
  | .keysched => 0x03
  | .enc => 0x04
  | .dec => 0x05
  | .rds idx => BitVec.ofNat 32 (idx * 2 ^ 8 + 0x06)
  | .zeroize => 0x07
  | .clrerr => 0x08

/-- One row of the opcode map of spec/30_encoding.md R95: a word c encodes the command when `c and mask = pattern`. -/
structure OpcodeRow where
  mnemonic : String
  pattern : Word32
  mask : Word32
deriving DecidableEq, Repr

/-- The opcode map of spec/30_encoding.md R95 and spec/opcode_table.json. The decoder above reads the formats; that the
two agree is a statement about both. -/
def opcodeTable : List OpcodeRow := [
  ⟨"NOP", 0x00000000, 0xFFFFFFFF⟩,
  ⟨"CFG", 0x00000001, 0xFF0000FF⟩,
  ⟨"GENPQ", 0x00000002, 0xFFFFFFFF⟩,
  ⟨"KEYSCHED", 0x00000003, 0xFFFFFFFF⟩,
  ⟨"ENC", 0x00000004, 0xFFFFFFFF⟩,
  ⟨"DEC", 0x00000005, 0xFFFFFFFF⟩,
  ⟨"RDS", 0x00000006, 0xFFFE00FF⟩,
  ⟨"ZEROIZE", 0x00000007, 0xFFFFFFFF⟩,
  ⟨"CLRERR", 0x00000008, 0xFFFFFFFF⟩]

/-- The word c matches the row: `c and mask = match` (spec/30_encoding.md R95). -/
def OpcodeRow.matchesWord (r : OpcodeRow) (c : Word32) : Bool := decide (c &&& r.mask = r.pattern)

/-- The command word whose bits are w, of which the opcode table gives nbits: every bit above nbits is 0. The word is
one 32-bit bus write (spec/30_encoding.md R90), so its bits are numbered as the table numbers them. -/
def commandOfBits (nbits w : Nat) : Word32 := BitVec.ofNat 32 (w % 2 ^ nbits)

/-- The command the decoder reads from those bits; none where it refuses them. -/
def decodeTableWord (nbits w : Nat) : Option Instr :=
  match decode (commandOfBits nbits w) with
  | .ok i => some i
  | .error _ => none

end Sys2Proof
end

