-- ==== Sys2Proof/Config.lean ====
section
/-! DEFINITION. The implementation parameters of spec/00_scope.md R7, and the free values of the model. -/

namespace Sys2Proof

/-- The parameters an implementation chooses (spec/00_scope.md R7). The model takes them as data (assumption 1):
`State` carries them, no step writes them, and every statement quantifies over them. -/
structure Params where
  /-- WMAX / 8, the largest word width in bytes. -/
  wmaxBytes : Nat
  /-- RMAX, the largest round count. -/
  rmax : Nat
  /-- BASE, the byte address of the register aperture on the host bus. -/
  base : Nat
deriving DecidableEq, Repr

/-- The legal values of spec/00_scope.md R7: WMAX a multiple of 8 in 64 to 256, RMAX in 32 to 255, BASE 4 KiB
aligned. -/
abbrev Params.Legal (p : Params) : Prop :=
  8 ≤ p.wmaxBytes ∧ p.wmaxBytes ≤ 32 ∧ 32 ≤ p.rmax ∧ p.rmax ≤ 255 ∧ p.base % 4096 = 0

/-- WMAX in bits (R7). -/
def Params.wmax (p : Params) : Nat := 8 * p.wmaxBytes

/-- TMAX = 2 · (RMAX + 1), the size of the S table (R7). -/
def Params.tmax (p : Params) : Nat := 2 * (p.rmax + 1)

namespace Config

/-- LMAX, the size of the L array (R7). -/
def lmax : Nat := 255

/-- KEYMAX, the largest key length in bytes (R7). -/
def keyMax : Nat := 255

/-- DESIGN CHOICE (assumption 1): the parameters of the part that `State.reset` describes, WMAX = 64 and RMAX = 32,
the ones spec/95_test_vectors.md uses where a vector needs PARAMS, with BASE = 0. -/
def reference : Params := { wmaxBytes := 8, rmax := 32, base := 0 }

/-- FREE VALUE (assumption 7): the byte that the n-th free draw gives. A read of a window byte while STATUS.BUSY = 1
returns an unspecified value, drawn per byte and per read (spec/70_reset_and_hazards.md R281). Nothing constrains it. -/
opaque freeByte : Nat → Byte

end Config

end Sys2Proof
end

