-- ==== Sys2Proof/Machine/State.lean ====
section
/-! DEFINITION. The state of the engine (spec/10_state.md), as plain data, its reset value, and the reasons a step can
stop. -/

namespace Sys2Proof.Machine

/-- The error codes of spec/60_exceptions.md R230. Codes 7 to 15 are reserved and never written. -/
inductive ECode where
  | none
  | illegalCmd
  | badConfig
  | keySize
  | noSchedule
  | badIndex
  | busy
deriving DecidableEq, Repr

/-- The fields of STATUS (spec/10_state.md R24). The reserved bits read 0 and hold nothing. -/
structure Status where
  busy : Bool
  svalid : Bool
  pqvalid : Bool
  err : Bool
  errovf : Bool
  ecode : ECode
  cfgWB : BitVec 8
  cfgR : BitVec 8
deriving DecidableEq, Repr

/-- A pair of bits, one for command completion and one for errors: the enables of INTEN (spec/10_state.md R29) or the
pending bits of INTSTAT (R30). -/
structure IntBits where
  done : Bool
  err : Bool
deriving DecidableEq, Repr

/-- The working values of a command (spec/10_state.md R39): words A and B, indices i into S and j into L, and the
iteration and round counters. -/
structure Work where
  a : Word
  b : Word
  i : Nat
  j : Nat
  iter : Nat
  round : Nat
deriving DecidableEq, Repr

/-- The size of a bus access: 1, 2 or 4 bytes (spec/20_memory.md R62). -/
inductive AccessSize where
  | byte
  | half
  | word
deriving DecidableEq, Repr

/-- What happens outside the sequencer, or gives it its turn (assumption 2). Bus addresses are those of the host bus. -/
inductive Event where
  /-- The host's `MemRead` (spec/20_memory.md R62). -/
  | read (addr : Nat) (size : AccessSize)
  /-- The host's `MemWrite` (spec/20_memory.md R62). -/
  | write (addr : Nat) (size : AccessSize) (data : Word32)
  /-- The engine sequencer moves before the host's next access (spec/44_control.md R200). -/
  | engine
  /-- The platform asserts reset (spec/70_reset_and_hazards.md R270). -/
  | reset
deriving DecidableEq, Repr

/-- The response of a bus access: OK or ERROR, and read data (spec/20_memory.md R62). -/
structure BusResp where
  ok : Bool
  data : Word32
deriving DecidableEq, Repr

/-- Byte storage by offset: strictly rising offsets, no byte equal to 0, which is what an unlisted offset reads as (the
reset contents of KEY and BLK, spec/70_reset_and_hazards.md R270). `Memory.wf` states the form. -/
abbrev Memory := List Host.Cell

/-- The state of the machine: everything spec/10_state.md R20 lists, then the model's own fields (`params`, `resp`,
`agenda`, `draws`; assumptions 1, 2, 7, 8). ID is a constant and CMD and IRQ hold no state of their own (R23, R26,
R31). -/
structure State where
  /-- The parameters of this part, read back in PARAMS (spec/10_state.md R25). No step writes them. -/
  params : Params
  /-- STATUS (R24). -/
  status : Status
  /-- KEYLEN.LEN (R27). -/
  keylen : BitVec 16
  /-- ERRINFO (R28). -/
  errinfo : Word32
  /-- INTEN (R29). -/
  inten : IntBits
  /-- INTSTAT (R30). -/
  intstat : IntBits
  /-- The bytes of the KEY and BLK windows, by aperture offset (R32, R33). -/
  mem : Memory
  /-- P (R34). -/
  p : Word
  /-- Q (R35). -/
  q : Word
  /-- SOUT (R36). -/
  sout : Word
  /-- S[0..TMAX-1], the expanded key table (R37). -/
  sTab : List Word
  /-- L[0..254], the key-word array (R38). -/
  lTab : List Word
  /-- PEND, the accepted command word (R39). It means nothing while BUSY = 0 (assumptions 3 and 18). -/
  pend : Word32
  /-- The working values (R39). They mean nothing between commands (assumptions 3 and 4). -/
  work : Work
  /-- The response the port gave to the last bus access (spec/20_memory.md R62). -/
  resp : Option BusResp
  /-- The outside events still to come, oldest first. -/
  agenda : List Event
  /-- How many free bytes have been drawn (spec/70_reset_and_hazards.md R281). -/
  draws : Nat
deriving DecidableEq, Repr

/-- Why a step stops with a fault. -/
inductive Fault where
  /-- Raised by the engine's turn when STATUS.BUSY = 1 and PEND is no command word. Acceptance writes only legal words
  to PEND (spec/44_control.md R201), so no run from reset reaches it. Safe: the model stops (assumption 6). -/
  | pendIsNoCommand
deriving DecidableEq, Repr

/-- Why a step refuses. -/
inductive Refusal where
  /-- Raised by an arm of `exec` whose command has no meaning yet. No arm raises it now. Safe: the model stops. -/
  | notModelled (mnemonic : String)
deriving DecidableEq, Repr

/-- The reset state of spec/70_reset_and_hazards.md R270, for a part with parameters p. S, L, PEND and the working values
are unspecified and unobservable there; the model gives them 0, as R270 allows (DESIGN CHOICE, assumption 3). -/
def State.resetWith (p : Params) : State where
  params := p
  status := { busy := false, svalid := false, pqvalid := false, err := false, errovf := false, ecode := .none,
              cfgWB := 4, cfgR := 16 }
  keylen := 0
  errinfo := 0
  inten := { done := false, err := false }
  intstat := { done := false, err := false }
  mem := []
  p := 0
  q := 0
  sout := 0
  sTab := List.replicate p.tmax 0
  lTab := List.replicate Config.lmax 0
  pend := 0
  work := { a := 0, b := 0, i := 0, j := 0, iter := 0, round := 0 }
  resp := none
  agenda := []
  draws := 0

/-- The machine right after reset: the reset state of the reference part (assumption 1). -/
def State.reset : State := State.resetWith Config.reference

end Sys2Proof.Machine
end

