-- ==== Sys2Proof/Machine/Operands.lean ====
section
/-! DEFINITION. The word datapath and the word codec (spec/40_datapath.md), and the derived quantities every command
reads from the state (spec/10_state.md R41). The datapath has no flags and raises no error (R133). -/

namespace Sys2Proof.Machine

/-! ### Word arithmetic for the width w, total on all words; the spec's operands are below `2 ^ w` -/

/-- A number as a word cell. -/
def wordOfNat (n : Nat) : Word := BitVec.ofNat 256 n

/-- `add_w` (spec/40_datapath.md R122). -/
def addW (w : Nat) (x y : Word) : Word := wordOfNat ((x.toNat + y.toNat) % 2 ^ w)

/-- `sub_w` (spec/40_datapath.md R123): the difference over the integers, reduced into `[0, 2 ^ w)`. -/
def subW (w : Nat) (x y : Word) : Word := wordOfNat ((x.toNat + (2 ^ w - y.toNat % 2 ^ w)) % 2 ^ w)

/-- `rotl_w` (spec/40_datapath.md R124): the amount is reduced by true modulo w. -/
def rotlW (w : Nat) (x : Word) (n : Nat) : Word :=
  if n % w = 0 then x
  else wordOfNat (((x.toNat <<< (n % w)) ||| (x.toNat >>> (w - n % w))) % 2 ^ w)

/-- `rotr_w` (spec/40_datapath.md R125): the amount is reduced by true modulo w. -/
def rotrW (w : Nat) (x : Word) (n : Nat) : Word :=
  if n % w = 0 then x
  else wordOfNat (((x.toNat >>> (n % w)) ||| (x.toNat <<< (w - n % w))) % 2 ^ w)

/-- `xor` (spec/40_datapath.md R127). -/
def xorW (x y : Word) : Word := x ^^^ y

/-! ### Byte-string codec (spec/00_scope.md R11) -/

/-- `LE(bytes)`: the first byte is least significant. -/
def leVal : List Byte → Nat
  | [] => 0
  | b :: bs => b.toNat + 256 * leVal bs

/-- Byte k of a number: `v[8k+7:8k]`. -/
def byteOf (v k : Nat) : Byte := BitVec.ofNat 8 (v / 2 ^ (8 * k))

/-- `toLE_n(v)`: n bytes, byte k equal to `v[8k+7:8k]`. -/
def toLE (n v : Nat) : List Byte := (List.range n).map (byteOf v)

/-- `word(z)`: bytes to word (spec/40_datapath.md R128). -/
def wordOfBytes (bs : List Byte) : Word := wordOfNat (leVal bs)

/-- `bytes(x)`: word to u bytes (spec/40_datapath.md R129). -/
def bytesOfWord (u : Nat) (x : Word) : List Byte := toLE u x.toNat

/-! ### Derived quantities (spec/10_state.md R41) -/

/-- `u = STATUS.CFG_WB`, the bytes per word. -/
def State.u (s : State) : Nat := s.status.cfgWB.toNat

/-- `w = 8 · STATUS.CFG_WB`, the bits per word. -/
def State.w (s : State) : Nat := 8 * s.u

/-- `R = STATUS.CFG_R`, the round count. -/
def State.rounds (s : State) : Nat := s.status.cfgR.toNat

/-- `T = 2 · (R + 1)`, the table entries in use. -/
def State.t (s : State) : Nat := 2 * (s.rounds + 1)

/-- `b = KEYLEN.LEN`, the key length in bytes. -/
def State.b (s : State) : Nat := s.keylen.toNat

/-- `ceil(x / y)` (spec/00_scope.md R13). -/
def ceilDiv (x y : Nat) : Nat := (x + y - 1) / y

/-- `LL' = max(ceil(b / u), 1)`: the key words, one zero word for an empty key (spec/42_keysched.md R164). -/
def State.llEff (s : State) : Nat := max (ceilDiv s.b s.u) 1

/-- Entry k of a table of words. Every rule reads below the table's length. -/
def entry (tab : List Word) (k : Nat) : Word := tab.getD k 0

/-! ### Access sizes -/

/-- The bytes of an access (spec/20_memory.md R62). -/
def AccessSize.bytes : AccessSize → Nat
  | .byte => 1
  | .half => 2
  | .word => 4

end Sys2Proof.Machine
end

