-- ==== Sys2Proof/Machine/Flags.lean ====
section
/-! DEFINITION. The status and control registers as the host reads them, and the interrupt output
(spec/10_state.md R23 to R31). -/

namespace Sys2Proof.Machine

/-- The number of an error code in STATUS.ECODE (spec/60_exceptions.md R230). -/
def ECode.number : ECode → Nat
  | .none => 0
  | .illegalCmd => 1
  | .badConfig => 2
  | .keySize => 3
  | .noSchedule => 4
  | .badIndex => 5
  | .busy => 6

/-- The 32-bit value of STATUS (spec/10_state.md R24); bits [7:5] and [15:12] are 0. -/
def Status.value (st : Status) : Word32 :=
  BitVec.ofNat 32 (st.busy.toNat + st.svalid.toNat * 2 ^ 1 + st.pqvalid.toNat * 2 ^ 2 + st.err.toNat * 2 ^ 3
    + st.errovf.toNat * 2 ^ 4 + st.ecode.number * 2 ^ 8 + st.cfgWB.toNat * 2 ^ 16 + st.cfgR.toNat * 2 ^ 24)

/-- The 32-bit value of INTEN or INTSTAT (spec/10_state.md R29, R30); bits [31:2] are 0. -/
def IntBits.value (b : IntBits) : Word32 := BitVec.ofNat 32 (b.done.toNat + b.err.toNat * 2 ^ 1)

/-- The bits [1:0] of data written to INTEN or INTSTAT. -/
def intBitsOf (v : Word32) : IntBits := { done := v.getLsbD 0, err := v.getLsbD 1 }

/-- Write 1 to clear (spec/10_state.md R30): each bit of `v` that is 1 clears that bit. -/
def clearInts (b v : IntBits) : IntBits := { done := b.done && !v.done, err := b.err && !v.err }

/-- The value of ID (spec/10_state.md R23): "RC5" in ASCII, then the interface version 1. -/
def idValue : Word32 := 0x52433501

/-- The value of PARAMS (spec/10_state.md R25). -/
def paramsValue (p : Params) : Word32 := BitVec.ofNat 32 (p.wmaxBytes + p.rmax * 2 ^ 8)

/-- The IRQ output (spec/10_state.md R31). It is a level, a function of INTSTAT and INTEN after every step. -/
def irq (s : State) : Bool := (s.intstat.done && s.inten.done) || (s.intstat.err && s.inten.err)

end Sys2Proof.Machine
end

