-- ==== Sys2Proof/Machine/Ops.lean ====
section
/-! DEFINITION. The named operations over the byte storage and the registers: memory, the windows, recording an error
and clearing it, accepting and completing a command. -/

namespace Sys2Proof.Machine

/-! ### Byte storage -/

/-- The byte at an offset; an unlisted offset reads 0 (spec/70_reset_and_hazards.md R270). -/
def Memory.read : Memory → Nat → Byte
  | [], _ => 0
  | (a', v') :: m, a => if a' = a then v' else Memory.read m a

/-- Write one byte, keeping the canonical form: writing 0 removes the entry. -/
def Memory.write : Memory → Nat → Byte → Memory
  | [], a, v => if v = 0 then [] else [(a, v)]
  | (a', v') :: m, a, v =>
    if a < a' then (if v = 0 then (a', v') :: m else (a, v) :: (a', v') :: m)
    else if a = a' then (if v = 0 then m else (a, v) :: m)
    else (a', v') :: Memory.write m a v

/-- Write consecutive bytes, the first at the lowest offset. -/
def Memory.writeBytes : Memory → Nat → List Byte → Memory
  | m, _, [] => m
  | m, a, v :: vs => Memory.writeBytes (Memory.write m a v) (a + 1) vs

/-- Read n consecutive bytes, the first at the lowest offset. -/
def Memory.readBytes (m : Memory) (a n : Nat) : List Byte := (List.range n).map fun k => Memory.read m (a + k)

/-- Every entry's offset is above `lo`, offsets strictly rise, and no byte is 0. -/
def Memory.risingFrom : Nat → Memory → Bool
  | _, [] => true
  | lo, (a, v) :: m => decide (lo ≤ a) && decide (v ≠ 0) && Memory.risingFrom (a + 1) m

/-- The canonical form: strictly rising offsets and no byte equal to what an unlisted offset reads as. -/
def Memory.wf (m : Memory) : Bool := Memory.risingFrom 0 m

/-! ### The windows (spec/20_memory.md R61) -/

/-- The offset of KEY[0]. -/
def keyBase : Nat := 0x100

/-- The offset of BLK[0]. -/
def blkBase : Nat := 0x200

/-- The offset of byte 0 of the P window. -/
def pBase : Nat := 0x240

/-- The offset of byte 0 of the Q window. -/
def qBase : Nat := 0x260

/-- The offset of byte 0 of the SOUT window. -/
def soutBase : Nat := 0x280

/-- The first offset above the windows. -/
def windowEnd : Nat := 0x2A0

/-- A byte of KEY, or of BLK below 2 · WMAX / 8: the writable bytes of the windows (spec/20_memory.md R65). -/
def isStored (p : Params) (off : Nat) : Bool :=
  (decide (keyBase ≤ off) && decide (off < blkBase))
    || (decide (blkBase ≤ off) && decide (off < blkBase + 2 * p.wmaxBytes))

/-- A byte of the P, Q or SOUT window. -/
def isResult (off : Nat) : Bool := decide (pBase ≤ off) && decide (off < windowEnd)

/-- Byte k of the window of a WMAX-bit register; bytes at and above WMAX / 8 read 0 (spec/10_state.md R34). -/
def regByte (p : Params) (r : Word) (k : Nat) : Byte := if k < p.wmaxBytes then byteOf r.toNat k else 0

/-- The byte at an offset while the engine is idle, 0 for a reserved offset (spec/20_memory.md R65, R66). -/
def windowByte (s : State) (off : Nat) : Byte :=
  if isStored s.params off then s.mem.read off
  else if pBase ≤ off ∧ off < qBase then regByte s.params s.p (off - pBase)
  else if qBase ≤ off ∧ off < soutBase then regByte s.params s.q (off - qBase)
  else if soutBase ≤ off ∧ off < windowEnd then regByte s.params s.sout (off - soutBase)
  else 0

/-- KEY[k] (spec/10_state.md R32). -/
def keyByte (s : State) (k : Nat) : Byte := s.mem.read (keyBase + k)

/-- Word A of the block: BLK[0..u-1] (spec/40_datapath.md R130). -/
def blkA (s : State) : Word := wordOfBytes (s.mem.readBytes blkBase s.u)

/-- Word B of the block: BLK[u..2u-1] (spec/40_datapath.md R130). -/
def blkB (s : State) : Word := wordOfBytes (s.mem.readBytes (blkBase + s.u) s.u)

/-- The storage after the block is written back: BLK[0..u-1] from A, BLK[u..2u-1] from B (spec/40_datapath.md R131). -/
def withBlock (s : State) (a b : Word) : Memory :=
  (s.mem.writeBytes blkBase (bytesOfWord s.u a)).writeBytes (blkBase + s.u) (bytesOfWord s.u b)

/-! ### Recording an error and clearing it -/

/-- A code and its diagnostic value (spec/60_exceptions.md R230). -/
structure EngineError where
  code : ECode
  info : Word32
deriving DecidableEq, Repr

/-- `raise Error(code, info)` (spec/60_exceptions.md R236): what taking an exception is on this engine. The first error is
latched; a later one sets ERROVF only; ERR_IP is set. There is no control transfer and no mode (R241). -/
def raiseError (e : EngineError) (s : State) : State :=
  if s.status.err then
    { s with status := { s.status with errovf := true }, intstat := { s.intstat with err := true } }
  else
    { s with status := { s.status with err := true, ecode := e.code }, errinfo := e.info,
             intstat := { s.intstat with err := true } }

/-- Clearing the error record (spec/60_exceptions.md R237, spec/44_control.md R210): the nearest thing to a return from an
exception (R241). ERR_IP is cleared apart from it, by `clearInts`. -/
def clearErrorRecord (s : State) : State :=
  { s with status := { s.status with err := false, errovf := false, ecode := .none }, errinfo := 0 }

/-! ### Accepting and completing a command (spec/44_control.md R200) -/

/-- Acceptance: STATUS.BUSY <- 1 and PEND <- c, nothing else. -/
def acceptCommand (c : Word32) (s : State) : State :=
  { s with status := { s.status with busy := true }, pend := c }

/-- The end of every completion: STATUS.BUSY <- 0 and INTSTAT.DONE_IP <- 1. PEND keeps the completed word: the spec leaves
it any value while BUSY = 0 (spec/93_implementation_defined.md I3; DESIGN CHOICE, assumption 18), as it does the working
values, which keep what the effect left in them (DESIGN CHOICE, assumption 4). -/
def finishCommand (s : State) : State :=
  { s with status := { s.status with busy := false }, intstat := { s.intstat with done := true } }

/-- A command turned away: the error is recorded and no command is left pending. PEND and the working values
are kept, as at completion (DESIGN CHOICE, assumptions 4, 5 and 18). -/
def turnAway (e : EngineError) (s : State) : State :=
  raiseError e { s with status := { s.status with busy := false } }

/-- The completion step of a command whose checks give `verdict` and whose effect is `effect`. In every state a run
reaches the checks passed at acceptance and still pass here (spec/70_reset_and_hazards.md R282); a state in which they
fail turns the command away as acceptance would (assumption 5). A command whose effect writes no working value keeps them
(DESIGN CHOICE, assumption 4). -/
def runCommand (verdict : Option EngineError) (effect : State → State) (s : State) :
    Host.Outcome State Fault Refusal :=
  match verdict with
  | some e => .next (turnAway e s)
  | none => .next (finishCommand (effect s))

/-- The command word the sequencer runs next: PEND while BUSY = 1, none while idle (spec/44_control.md R200). -/
def fetchCommand (s : State) : Option Word32 := if s.status.busy then some s.pend else none

end Sys2Proof.Machine
end

