-- ==== Sys2Proof/Machine/Accept.lean ====
section
/-! DEFINITION. The acceptance checks of spec/44_control.md R201 and the presentation of a command word. -/

namespace Sys2Proof.Machine

/-- Check 3 (R201): WB = 0, WB > WMAX / 8 or RR > RMAX is BAD_CONFIG with the command word. -/
def checkCfg (wb rr : Nat) (s : State) : Option EngineError :=
  if wb = 0 ∨ s.params.wmaxBytes < wb ∨ s.params.rmax < rr then some ⟨.badConfig, encode (.cfg wb rr)⟩ else none

/-- Check 4 (R201, spec/42_keysched.md R161): KEYLEN.LEN > 255 is KEY_SIZE with the length. -/
def checkKeysched (s : State) : Option EngineError :=
  if Config.keyMax < s.b then some ⟨.keySize, BitVec.ofNat 32 s.b⟩ else none

/-- Check 5 (R201): SVALID = 0 is NO_SCHEDULE with the command word. -/
def checkSchedule (i : Instr) (s : State) : Option EngineError :=
  if s.status.svalid then none else some ⟨.noSchedule, encode i⟩

/-- Checks 5 and 6 (R201): NO_SCHEDULE first, then IDX >= T is BAD_INDEX with the index. -/
def checkRds (idx : Nat) (s : State) : Option EngineError :=
  match checkSchedule (.rds idx) s with
  | some e => some e
  | none => if s.t ≤ idx then some ⟨.badIndex, BitVec.ofNat 32 idx⟩ else none

/-- The checks 3 to 6 of R201 that apply to a command. -/
def acceptError (i : Instr) (s : State) : Option EngineError :=
  match i with
  | .nop => none
  | .cfg wb rr => checkCfg wb rr s
  | .genpq => none
  | .keysched => checkKeysched s
  | .enc => checkSchedule .enc s
  | .dec => checkSchedule .dec s
  | .rds idx => checkRds idx s
  | .zeroize => none
  | .clrerr => none

/-- A 4-byte write of c to CMD (R200, R201): the checks in their order, the first failing one recorded, or acceptance. -/
def presentCommand (c : Word32) (s : State) : State :=
  if s.status.busy then raiseError ⟨.busy, 0x008⟩ s
  else
    match decode c with
    | .error _ => raiseError ⟨.illegalCmd, c⟩ s
    | .ok i =>
      match acceptError i s with
      | some e => raiseError e s
      | none => acceptCommand c s

end Sys2Proof.Machine
end

