-- ==== Sys2Proof/Machine/Bus.lean ====
section
/-! DEFINITION. The host's bus accesses (spec/20_memory.md): the aperture, alignment, the control registers, the windows,
and what is different while the engine is busy (spec/70_reset_and_hazards.md R280, R281). -/

namespace Sys2Proof.Machine

/-- The aperture offset of a bus address: BASE to BASE + 0xFFF (spec/20_memory.md R60). An address outside it does not
reach the engine (assumption 9). -/
def apertureOffset (p : Params) (addr : Nat) : Option Nat :=
  if p.base ≤ addr ∧ addr < p.base + 4096 then some (addr - p.base) else none

/-- The first offset above the control registers (spec/20_memory.md R61). -/
def controlEnd : Nat := 0x020

/-- An access that gets an ERROR response: misaligned (spec/20_memory.md R63), or narrower than 4 bytes to a control
register (R64). -/
def isBusError (off : Nat) (size : AccessSize) : Bool :=
  decide (off % size.bytes ≠ 0) || (decide (off < controlEnd) && decide (size ≠ .word))

/-- The access's response. -/
def respond (r : BusResp) (s : State) : State := { s with resp := some r }

/-- The ERROR response: read data 0 and no engine state changes (spec/20_memory.md R62). -/
def errorResp : BusResp := { ok := false, data := 0 }

/-- An OK response with data. -/
def okResp (v : Word32) : BusResp := { ok := true, data := v }

/-! ### Reads -/

/-- The value of a control register (spec/20_memory.md R61); CMD reads 0 (R67). -/
def readControl (off : Nat) (s : State) : Word32 :=
  match off with
  | 0x000 => idValue
  | 0x004 => paramsValue s.params
  | 0x00C => s.status.value
  | 0x010 => s.keylen.setWidth 32
  | 0x014 => s.errinfo
  | 0x018 => s.inten.value
  | 0x01C => s.intstat.value
  | _ => 0

/-- A byte whose value a busy read does not tell: a byte of KEY, BLK, P, Q or SOUT (spec/70_reset_and_hazards.md R281). -/
def isFreeWhileBusy (p : Params) (off : Nat) : Bool := isStored p off || isResult off

/-- Byte k of a read at off: its value, or a free byte while the engine is busy (spec/70_reset_and_hazards.md R281). -/
def readByte (s : State) (off k : Nat) : Byte :=
  if s.status.busy && isFreeWhileBusy s.params (off + k) then Config.freeByte (s.draws + k)
  else windowByte s (off + k)

/-- The data of an n-byte read above the control registers, little-endian (spec/20_memory.md R65). -/
def readData (s : State) (off n : Nat) : Word32 :=
  BitVec.ofNat 32 (leVal ((List.range n).map (readByte s off)))

/-- `MemRead(off, n)` (spec/20_memory.md R62). The engine's state does not change; a busy read above the control registers
moves the model's draw counter on. -/
def busRead (off : Nat) (size : AccessSize) (s : State) : State :=
  if isBusError off size then respond errorResp s
  else if off < controlEnd then respond (okResp (readControl off s)) s
  else
    respond (okResp (readData s off size.bytes))
      { s with draws := if s.status.busy then s.draws + size.bytes else s.draws }

/-! ### Writes -/

/-- A 4-byte write to a control register (spec/20_memory.md R61). CMD, KEYLEN, INTEN and INTSTAT have an effect; the others
ignore it (R67). While busy, CMD and KEYLEN are ignored and raise BUSY (spec/70_reset_and_hazards.md R280). -/
def writeControl (off : Nat) (v : Word32) (s : State) : State :=
  match off with
  | 0x008 => presentCommand v s
  | 0x010 => if s.status.busy then raiseError ⟨.busy, 0x010⟩ s else { s with keylen := v.setWidth 16 }
  | 0x018 => { s with inten := intBitsOf v }
  | 0x01C => { s with intstat := clearInts s.intstat (intBitsOf v) }
  | _ => s

/-- Write the bytes of an access that are writable; the others are ignored (spec/20_memory.md R65, R66, R67). -/
def storeBytes (p : Params) : Memory → Nat → List Byte → Memory
  | m, _, [] => m
  | m, off, v :: vs => storeBytes p (if isStored p off then m.write off v else m) (off + 1) vs

/-- The access reaches a byte of KEY or BLK. -/
def touchesStored (p : Params) (off n : Nat) : Bool := (List.range n).any fun k => isStored p (off + k)

/-- An n-byte write above the control registers (spec/20_memory.md R65). While busy, a write that reaches KEY or BLK is
ignored and raises BUSY with its lowest offset (spec/70_reset_and_hazards.md R280, spec/60_exceptions.md R230). -/
def writeWindow (off n : Nat) (v : Word32) (s : State) : State :=
  if s.status.busy && touchesStored s.params off n then raiseError ⟨.busy, BitVec.ofNat 32 off⟩ s
  else { s with mem := storeBytes s.params s.mem off (toLE n v.toNat) }

/-- `MemWrite(off, n, v)` (spec/20_memory.md R62). Data bits above the access are not used (assumption 13). -/
def busWrite (off : Nat) (size : AccessSize) (v : Word32) (s : State) : State :=
  if isBusError off size then respond errorResp s
  else if off < controlEnd then respond (okResp 0) (writeControl off v s)
  else respond (okResp 0) (writeWindow off size.bytes v s)

end Sys2Proof.Machine
end

