-- ==== Sys2Proof/Machine/Control.lean ====
section
/-! DEFINITION. The control commands NOP, CFG, RDS, ZEROIZE and CLRERR (spec/44_control.md). -/

namespace Sys2Proof.Machine

/-- NOP (spec/44_control.md R203): completion only. -/
def execNop (s : State) : Host.Outcome State Fault Refusal := runCommand none id s

/-- The effect of CFG (spec/44_control.md R204). -/
def configure (wb rr : Nat) (s : State) : State :=
  { s with status := { s.status with
      cfgWB := BitVec.ofNat 8 wb
      cfgR := BitVec.ofNat 8 rr
      svalid := false
      pqvalid := false } }

/-- CFG WB, RR (spec/44_control.md R204). -/
def execCfg (wb rr : Nat) (s : State) : Host.Outcome State Fault Refusal :=
  runCommand (checkCfg wb rr s) (configure wb rr) s

/-- The effect of RDS (spec/44_control.md R206). -/
def readTableEntry (idx : Nat) (s : State) : State := { s with sout := entry s.sTab idx }

/-- RDS IDX (spec/44_control.md R206). -/
def execRds (idx : Nat) (s : State) : Host.Outcome State Fault Refusal :=
  runCommand (checkRds idx s) (readTableEntry idx) s

/-- The effect of ZEROIZE (spec/44_control.md R207). KEY and BLK are all the byte storage there is, so clearing both leaves
it empty. The rule does not list the working values A, B, i, j and the counters, which hold what the last key schedule or
round left; the model keeps them (DESIGN CHOICE, assumption 4). -/
def zeroizeKeys (s : State) : State :=
  { s with
    mem := []
    keylen := 0
    p := 0
    q := 0
    sout := 0
    sTab := List.replicate s.params.tmax 0
    lTab := List.replicate Config.lmax 0
    status := { s.status with svalid := false, pqvalid := false } }

/-- ZEROIZE (spec/44_control.md R207). -/
def execZeroize (s : State) : Host.Outcome State Fault Refusal := runCommand none zeroizeKeys s

/-- CLRERR (spec/44_control.md R210): the record as it stands at completion is cleared. -/
def execClrerr (s : State) : Host.Outcome State Fault Refusal := runCommand none clearErrorRecord s

end Sys2Proof.Machine
end

