-- ==== Sys2Proof/Machine/Magic.lean ====
section
/-! DEFINITION. The magic constant generator (spec/41_magic.md) and the command GENPQ. -/

namespace Sys2Proof.Machine

/-- EROM: the first 256 binary fraction digits of e - 2 (spec/41_magic.md R142). -/
def erom : Nat := 0xB7E151628AED2A6ABF7158809CF4F3C762E7160F38B4DA56A784D9045190CFEF

/-- FROM of the spec: the first 256 binary fraction digits of the golden ratio less 1 (spec/41_magic.md R142). -/
def phiRom : Nat := 0x9E3779B97F4A7C15F39CC0605CEDC8341082276BF3A27251F86C6A11D0C18E95

/-- `ROM[255 : 256 - w] or 1` (spec/41_magic.md R142). -/
def magicWord (rom w : Nat) : Word := wordOfNat ((rom / 2 ^ (256 - w)) ||| 1)

/-- P_w (spec/41_magic.md R142). -/
def pConst (w : Nat) : Word := magicWord erom w

/-- Q_w (spec/41_magic.md R142). -/
def qConst (w : Nat) : Word := magicWord phiRom w

/-- P <- P_w, Q <- Q_w, PQVALID <- 1: the effect of GENPQ and phase 0 of KEYSCHED (spec/41_magic.md R143). -/
def generateConstants (s : State) : State :=
  { s with p := pConst s.w, q := qConst s.w, status := { s.status with pqvalid := true } }

/-- GENPQ (spec/41_magic.md R143). -/
def execGenpq (s : State) : Host.Outcome State Fault Refusal := runCommand none generateConstants s

end Sys2Proof.Machine
end

