-- ==== Sys2Proof/Machine/KeySched.lean ====
section
/-! DEFINITION. The key schedule (spec/42_keysched.md): table initialisation, key packing, mixing, and the command
KEYSCHED. -/

namespace Sys2Proof.Machine

/-- Phase 1 (spec/42_keysched.md R162): S[0] = P_w, S[k] = add_w(S[k-1], Q_w), t entries. -/
def initTable (w t : Nat) : List Word := List.iterate (fun x => addW w x (qConst w)) (pConst w) t

/-- Word j of the packed key (spec/42_keysched.md R163): the key bytes from j·u up, at most u of them and none at or
above b, little-endian; missing bytes are 0. -/
def packedWord (u b : Nat) (key : Nat → Byte) (j : Nat) : Word :=
  wordOfBytes ((List.range u).map fun k => if j * u + k < b then key (j * u + k) else 0)

/-- Phase 2 (spec/42_keysched.md R163, R164): the ll words of the packed key. -/
def packKey (u b ll : Nat) (key : Nat → Byte) : List Word := (List.range ll).map (packedWord u b key)

/-- What the mixing phase works on: the tables S and L, and the working values. -/
structure Mixing where
  sTab : List Word
  lTab : List Word
  work : Work
deriving DecidableEq, Repr

/-- One iteration of phase 3 (spec/42_keysched.md R165), for the width w, with i mod t and j mod ll. The second rotation
amount is the w-bit sum of the new A and the old B (spec/40_datapath.md R126). -/
def mixStep (w t ll : Nat) (m : Mixing) : Mixing :=
  let a := rotlW w (addW w (addW w (entry m.sTab m.work.i) m.work.a) m.work.b) 3
  let b := rotlW w (addW w (addW w (entry m.lTab m.work.j) a) m.work.b) (addW w a m.work.b).toNat
  { sTab := m.sTab.set m.work.i a
    lTab := m.lTab.set m.work.j b
    work := { m.work with
      a := a
      b := b
      i := (m.work.i + 1) % t
      j := (m.work.j + 1) % ll
      iter := m.work.iter + 1 } }

/-- n iterations of phase 3. -/
def mixRun (w t ll : Nat) : Nat → Mixing → Mixing
  | 0, m => m
  | n + 1, m => mixRun w t ll n (mixStep w t ll m)

/-- N = 3 · max(T, LL') iterations (spec/42_keysched.md R165). -/
def mixCount (t ll : Nat) : Nat := 3 * max t ll

/-- The tables and working values as phase 3 starts: S[0..T-1] and L[0..LL'-1] written by phases 1 and 2, the rest of both
tables as it was, and A = B = i = j = 0 (spec/42_keysched.md R160). -/
def mixStart (s : State) : Mixing where
  sTab := initTable s.w s.t ++ s.sTab.drop s.t
  lTab := packKey s.u s.b s.llEff (keyByte s) ++ s.lTab.drop s.llEff
  work := { s.work with a := 0, b := 0, i := 0, j := 0, iter := 0 }

/-- The effect of KEYSCHED (spec/42_keysched.md R160). -/
def expandKey (s : State) : State :=
  let m := mixRun s.w s.t s.llEff (mixCount s.t s.llEff) (mixStart s)
  let g := generateConstants s
  { g with sTab := m.sTab, lTab := m.lTab, work := m.work, status := { g.status with svalid := true } }

/-- KEYSCHED (spec/42_keysched.md R160, R161). -/
def execKeysched (s : State) : Host.Outcome State Fault Refusal := runCommand (checkKeysched s) expandKey s

end Sys2Proof.Machine
end

