-- ==== Sys2Proof/Machine/Round.lean ====
section
/-! DEFINITION. The round function (spec/43_round.md) and the commands ENC and DEC. -/

namespace Sys2Proof.Machine

/-- The two words of a block. -/
abbrev Block := Word × Word

/-- Encryption round i (spec/43_round.md R180, R181): A first, then B from the A just computed. -/
def encRound (w : Nat) (tab : List Word) (i : Nat) (ab : Block) : Block :=
  let a := addW w (rotlW w (xorW ab.1 ab.2) ab.2.toNat) (entry tab (2 * i))
  let b := addW w (rotlW w (xorW ab.2 a) a.toNat) (entry tab (2 * i + 1))
  (a, b)

/-- Rounds 1 to r, upward. -/
def encRounds (w : Nat) (tab : List Word) : Nat → Block → Block
  | 0, ab => ab
  | r + 1, ab => encRound w tab (r + 1) (encRounds w tab r ab)

/-- Whitening, then rounds 1 to r (spec/43_round.md R180). -/
def encryptBlock (w : Nat) (tab : List Word) (r : Nat) (ab : Block) : Block :=
  encRounds w tab r (addW w ab.1 (entry tab 0), addW w ab.2 (entry tab 1))

/-- Decryption round i (spec/43_round.md R184, R185): B first, then A from the B just computed. -/
def decRound (w : Nat) (tab : List Word) (i : Nat) (ab : Block) : Block :=
  let b := xorW (rotrW w (subW w ab.2 (entry tab (2 * i + 1))) ab.1.toNat) ab.1
  let a := xorW (rotrW w (subW w ab.1 (entry tab (2 * i))) b.toNat) b
  (a, b)

/-- Rounds r down to 1. -/
def decRounds (w : Nat) (tab : List Word) : Nat → Block → Block
  | 0, ab => ab
  | r + 1, ab => decRounds w tab r (decRound w tab (r + 1) ab)

/-- Rounds r down to 1, then the final subtractions (spec/43_round.md R184). -/
def decryptBlock (w : Nat) (tab : List Word) (r : Nat) (ab : Block) : Block :=
  let x := decRounds w tab r ab
  (subW w x.1 (entry tab 0), subW w x.2 (entry tab 1))

/-- Write the block back in place (spec/43_round.md R187). The working words keep the result, and the round counter the
rounds run (assumption 4). -/
def storeBlock (ab : Block) (s : State) : State :=
  { s with mem := withBlock s ab.1 ab.2, work := { s.work with a := ab.1, b := ab.2, round := s.rounds } }

/-- The effect of ENC (spec/43_round.md R180). -/
def encryptInPlace (s : State) : State :=
  storeBlock (encryptBlock s.w s.sTab s.rounds (blkA s, blkB s)) s

/-- The effect of DEC (spec/43_round.md R184). -/
def decryptInPlace (s : State) : State :=
  storeBlock (decryptBlock s.w s.sTab s.rounds (blkA s, blkB s)) s

/-- ENC (spec/43_round.md R180). -/
def execEnc (s : State) : Host.Outcome State Fault Refusal := runCommand (checkSchedule .enc s) encryptInPlace s

/-- DEC (spec/43_round.md R184). -/
def execDec (s : State) : Host.Outcome State Fault Refusal := runCommand (checkSchedule .dec s) decryptInPlace s

end Sys2Proof.Machine
end

