-- ==== Sys2Proof/Machine/Dispatch.lean ====
section
/-! DEFINITION. One arm per command: the completion step of the command (spec/44_control.md R200). -/

namespace Sys2Proof.Machine

/-- The completion step of a command: its whole effect, BUSY <- 0 and DONE_IP <- 1 (spec/44_control.md R200). -/
def exec (i : Instr) (s : State) : Host.Outcome State Fault Refusal :=
  match i with
  | .nop => Sys2Proof.Machine.execNop s
  | .cfg wb rr => Sys2Proof.Machine.execCfg wb rr s
  | .genpq => Sys2Proof.Machine.execGenpq s
  | .keysched => Sys2Proof.Machine.execKeysched s
  | .enc => Sys2Proof.Machine.execEnc s
  | .dec => Sys2Proof.Machine.execDec s
  | .rds idx => Sys2Proof.Machine.execRds idx s
  | .zeroize => Sys2Proof.Machine.execZeroize s
  | .clrerr => Sys2Proof.Machine.execClrerr s

end Sys2Proof.Machine
end

