-- ==== Sys2Proof/Machine/Agents.lean ====
section
/-! DEFINITION. The agents and whose turn it is (spec/10_state.md R20): the engine sequencer, the host, the reset
input. -/

namespace Sys2Proof.Machine

/-- The engine's turn (spec/44_control.md R200): the completion of the command in PEND, enabled exactly when BUSY = 1; an
idle engine keeps its state (spec/60_exceptions.md R247). -/
def engineStep (s : State) : Host.Outcome State Fault Refusal :=
  match fetchCommand s with
  | none => .next s
  | some c =>
    match decode c with
    | .ok i => exec i s
    | .error _ => .fault .pendIsNoCommand

/-- Reset (spec/70_reset_and_hazards.md R270, R271): the reset state of the same part. What the outside does next, and the
model's draw counter, are not the engine's to reset (assumption 17). -/
def applyReset (s : State) : State := { State.resetWith s.params with agenda := s.agenda, draws := s.draws }

/-- One host access, by bus address (spec/20_memory.md R60, R70). -/
def hostAccess (addr : Nat) (access : Nat → State → State) (s : State) : State :=
  match apertureOffset s.params addr with
  | some off => access off s
  | none => { s with resp := none }

/-- The step an event stands for. -/
def eventStep (e : Event) (s : State) : Host.Outcome State Fault Refusal :=
  match e with
  | .read addr size => .next (hostAccess addr (fun off => busRead off size) s)
  | .write addr size v => .next (hostAccess addr (fun off => busWrite off size v) s)
  | .engine => engineStep s
  | .reset => .next (applyReset s)

/-- One step of one agent (spec/10_state.md R20): the next event of the agenda, or the engine when the outside has nothing
left to do (spec/70_reset_and_hazards.md R285; assumption 2). -/
def takeTurn (s : State) : Host.Outcome State Fault Refusal :=
  match s.agenda with
  | [] => engineStep s
  | e :: rest => eventStep e { s with agenda := rest }

end Sys2Proof.Machine
end

