-- ==== Sys2Proof/Machine/Step.lean ====
section
/-! DEFINITION. One step of the machine, and placing a command where the sequencer fetches. -/

namespace Sys2Proof.Machine

/-- One step of one agent (spec/10_state.md R20). -/
def step (s : State) : Host.Outcome State Fault Refusal := takeTurn s

/-- The state with a command placed where the sequencer fetches it: PEND, with BUSY = 1, and the engine's turn next
(spec/44_control.md R200; assumption 5). -/
def State.withFetchWord (s : State) (nbits w : Nat) : State :=
  { acceptCommand (commandOfBits nbits w) s with agenda := Event.engine :: s.agenda }

end Sys2Proof.Machine
end

