-- ==== Sys2Proof/Safety.lean ====
section
/-! DEFINITION. What counts as a safe run, in the terms the statements use: the invariant of spec/10_state.md R40 with what
it needs to be kept by every step, and the states a run can reach. -/

namespace Sys2Proof.Safety

open Sys2Proof.Machine

/-- The invariant of the machine: spec/10_state.md R40, the legal parameters of spec/00_scope.md R7, the shapes of the
arrays and of the byte storage, and the pending command of spec/44_control.md R201. -/
structure Inv (s : State) : Prop where
  /-- The parameters are legal (spec/00_scope.md R7). -/
  paramsLegal : s.params.Legal
  /-- `1 <= STATUS.CFG_WB <= WMAX/8` (R40). -/
  widthLegal : 1 ≤ s.u ∧ s.u ≤ s.params.wmaxBytes
  /-- `0 <= STATUS.CFG_R <= RMAX` (R40). -/
  roundsLegal : s.rounds ≤ s.params.rmax
  /-- The byte storage is in canonical form. -/
  memCanonical : s.mem.wf = true
  /-- The byte storage holds bytes of KEY and of BLK only. -/
  memStored : ∀ cell ∈ s.mem, isStored s.params cell.1 = true
  /-- S has TMAX entries (spec/10_state.md R37). -/
  sLength : s.sTab.length = s.params.tmax
  /-- L has 255 entries (spec/10_state.md R38). -/
  lLength : s.lTab.length = Config.lmax
  /-- Every word register holds a WMAX-bit value (spec/10_state.md R34 to R39). -/
  regsFit : ∀ x ∈ [s.p, s.q, s.sout, s.work.a, s.work.b], x.toNat < 2 ^ s.params.wmax
  /-- Every entry of S is a WMAX-bit value. -/
  sFits : ∀ x ∈ s.sTab, x.toNat < 2 ^ s.params.wmax
  /-- Every entry of L is a WMAX-bit value. -/
  lFits : ∀ x ∈ s.lTab, x.toNat < 2 ^ s.params.wmax
  /-- If SVALID = 1 then S[0..T-1] are all below `2^w` (R40). -/
  scheduleFits : s.status.svalid = true → ∀ k < s.t, (entry s.sTab k).toNat < 2 ^ s.w
  /-- If PQVALID = 1 then P = P_w and Q = Q_w (R40). -/
  constantsHeld : s.status.pqvalid = true → s.p = pConst s.w ∧ s.q = qConst s.w
  /-- ERR = 0 implies ECODE = 0, ERROVF = 0 and ERRINFO = 0 (R40). -/
  noErrorNoRecord : s.status.err = false → s.status.ecode = .none ∧ s.status.errovf = false ∧ s.errinfo = 0
  /-- While BUSY = 1, PEND is a command whose acceptance checks pass (spec/44_control.md R201,
  spec/70_reset_and_hazards.md R282). -/
  pendAccepted : s.status.busy = true → ∃ i, decode s.pend = .ok i ∧ acceptError i s = none

/-- The states a run reaches from the reset state of a legal part, whatever the outside does (any agenda). -/
inductive Reachable : State → Prop where
  | reset (p : Params) (agenda : List Event) :
      p.Legal → Reachable { State.resetWith p with agenda := agenda }
  | next (s t : State) : Reachable s → step s = .next t → Reachable t

/-- k steps lead from s to t, none of them stopping. -/
inductive StepsTo : Nat → State → State → Prop where
  | zero (s : State) : StepsTo 0 s s
  | succ (k : Nat) (s s' t : State) : step s = .next s' → StepsTo k s' t → StepsTo (k + 1) s t

/-- A state from which the next step does not stop. -/
def CanStep (s : State) : Prop := ∃ t, step s = .next t

/-- The engine has the next turn. -/
def EngineNext (s : State) : Prop := s.agenda = [] ∨ s.agenda.head? = some .engine

end Sys2Proof.Safety
end

