-- ==== Sys2Proof/Certificates/Slice0/Obligations.lean ====
section
/-! DEFINITION. The statements for the provers, grouped as the spec's files are. Hypotheses on a state are on the state
alone; the shapes they ask for (array lengths, legal parameters, canonical storage) are clauses of `Safety.Inv`, which
`Obligations.StepKeepsInvariant` states to hold along every run. -/

open Sys2Proof
open Sys2Proof.Machine

/-! ### Encoding (spec/30_encoding.md) -/

/-- Decoding what the encoder writes gives the command back, with every operand value its field admits. -/
def Obligations.DecodeEncodeRoundTrip : Prop :=
  ∀ i : Instr, i.wellFormed = true → decode (encode i) = .ok i

/-- A word that decodes is the encoding of the command it decodes to, and that command is well formed. -/
def Obligations.EncodeDecodeRoundTrip : Prop :=
  ∀ (c : Word32) (i : Instr), decode c = .ok i → i.wellFormed = true ∧ encode i = c

/-- The decoder takes exactly the words that match a row of the opcode map, as that row's command (R96), and no word matches two
rows (the spec's own inference in R96, from the map). -/
def Obligations.DecoderAgreesWithOpcodeMap : Prop :=
  ∀ c : Word32,
    (∀ i, decode c = .ok i → ∃ r ∈ opcodeTable, r.mnemonic = i.mnemonic ∧ r.matchesWord c = true) ∧
    (∀ r ∈ opcodeTable, r.matchesWord c = true → ∃ i, decode c = .ok i ∧ i.mnemonic = r.mnemonic) ∧
    (∀ r ∈ opcodeTable, ∀ r' ∈ opcodeTable, r.matchesWord c = true → r'.matchesWord c = true → r = r')

/-- The encoding examples, legal and illegal, that the spec works out in R102, and one word of every other command. -/
def Obligations.SampleWordsDecode : Prop :=
  encode (.cfg 4 16) = 0x00100401 ∧ encode (.cfg 6 20) = 0x00140601 ∧ encode (.cfg 8 0) = 0x00000801 ∧
  encode (.rds 33) = 0x00002106 ∧ encode (.rds 511) = 0x0001FF06 ∧
  decode 0x00100401 = .ok (.cfg 4 16) ∧ decode 0x00140601 = .ok (.cfg 6 20) ∧ decode 0x00000801 = .ok (.cfg 8 0) ∧
  decode 0x00002106 = .ok (.rds 33) ∧ decode 0x0001FF06 = .ok (.rds 511) ∧
  decode 0x00000003 = .ok .keysched ∧ decode 0x00000004 = .ok .enc ∧
  decode 0x00000104 = .error .mbzBitSet ∧ decode 0x01000001 = .error .mbzBitSet ∧
  decode 0x00020006 = .error .mbzBitSet ∧ decode 0x00000009 = .error .reservedOpcode ∧
  decode 0x00000000 = .ok .nop ∧ decode 0x00000002 = .ok .genpq ∧ decode 0x00000005 = .ok .dec ∧
  decode 0x00000007 = .ok .zeroize ∧ decode 0x00000008 = .ok .clrerr

/-- R97: while idle, a word whose opcode is 0x09 to 0xFF, or that breaks the mask of its opcode's row, is rejected with
ILLEGAL_CMD and ERRINFO = the word; operand values inside their fields are not decode errors but BAD_CONFIG (with the
word) and BAD_INDEX (with the index). -/
def Obligations.IllegalWordsAreRejected : Prop :=
  ∀ (s : State), s.status.busy = false →
    (∀ c : Word32,
      (9 ≤ cmdField c 7 0 ∨
        ∃ r ∈ opcodeTable, cmdField c 7 0 = cmdField r.pattern 7 0 ∧ r.matchesWord c = false) →
      busWrite 0x008 .word c s = respond ⟨true, 0⟩ (raiseError ⟨.illegalCmd, c⟩ s)) ∧
    (∀ wb rr, wb < 256 → rr < 256 → (wb = 0 ∨ s.params.wmaxBytes < wb ∨ s.params.rmax < rr) →
      busWrite 0x008 .word (encode (.cfg wb rr)) s =
        respond ⟨true, 0⟩ (raiseError ⟨.badConfig, encode (.cfg wb rr)⟩ s)) ∧
    (∀ idx, idx < 512 → s.status.svalid = true → s.t ≤ idx →
      busWrite 0x008 .word (encode (.rds idx)) s =
        respond ⟨true, 0⟩ (raiseError ⟨.badIndex, BitVec.ofNat 32 idx⟩ s))

/-! ### Acceptance (spec/44_control.md R200, R201) and errors (spec/60_exceptions.md) -/

/-- The checks on a word written to CMD, in their order, each with its code and info, and acceptance where all pass:
BUSY <- 1 and PEND <- the word, nothing else. An accepted command completes without an error. The checks are
R201's; its last sentence, that an accepted command cannot fail, is the spec's own inference. -/
def Obligations.AcceptanceChecksInOrder : Prop :=
  ∀ (s : State) (c : Word32),
    let t := busWrite 0x008 .word c s
    let rejected := fun (code : ECode) (info : Word32) => t = respond ⟨true, 0⟩ (raiseError ⟨code, info⟩ s)
    let accepted := t = { s with status := { s.status with busy := true }, pend := c, resp := some ⟨true, 0⟩ }
    (s.status.busy = true → rejected .busy 0x00000008) ∧
    (s.status.busy = false →
      ((∀ r ∈ opcodeTable, r.matchesWord c = false) → rejected .illegalCmd c) ∧
      (∀ wb rr, wb < 256 → rr < 256 → c = encode (.cfg wb rr) →
        (wb = 0 ∨ s.params.wmaxBytes < wb ∨ s.params.rmax < rr → rejected .badConfig c) ∧
        (1 ≤ wb → wb ≤ s.params.wmaxBytes → rr ≤ s.params.rmax → accepted)) ∧
      (c = encode .keysched →
        (255 < s.keylen.toNat → rejected .keySize (s.keylen.setWidth 32)) ∧
        (s.keylen.toNat ≤ 255 → accepted)) ∧
      (c = encode .enc ∨ c = encode .dec →
        (s.status.svalid = false → rejected .noSchedule c) ∧ (s.status.svalid = true → accepted)) ∧
      (∀ idx, idx < 512 → c = encode (.rds idx) →
        (s.status.svalid = false → rejected .noSchedule c) ∧
        (s.status.svalid = true → s.t ≤ idx → rejected .badIndex (BitVec.ofNat 32 idx)) ∧
        (s.status.svalid = true → idx < s.t → accepted)) ∧
      (c = encode .nop ∨ c = encode .genpq ∨ c = encode .zeroize ∨ c = encode .clrerr → accepted) ∧
      (∀ i, decode c = .ok i → t.status.busy = true →
        ∃ r, exec i t = .next r ∧ r.status.busy = false ∧ r.intstat = { s.intstat with done := true }))

/-- R161: KEYSCHED with a key longer than 255 bytes is rejected, ERRINFO records the length (when no error stood before),
and S, SVALID, P, Q, PQVALID keep their values; a length of 255 is accepted. -/
def Obligations.KeySizeIsChecked : Prop :=
  ∀ s : State, s.status.busy = false →
    (255 < s.keylen.toNat →
      let t := busWrite 0x008 .word 0x00000003 s
      t = respond ⟨true, 0⟩ (raiseError ⟨.keySize, s.keylen.setWidth 32⟩ s) ∧
      (s.status.err = false → t.status.err = true ∧ t.status.ecode = .keySize ∧ t.errinfo.toNat = s.keylen.toNat) ∧
      t.sTab = s.sTab ∧ t.status.svalid = s.status.svalid ∧ t.p = s.p ∧ t.q = s.q ∧
      t.status.pqvalid = s.status.pqvalid ∧ t.status.busy = false) ∧
    (s.keylen.toNat = 255 →
      (busWrite 0x008 .word 0x00000003 s).status.busy = true ∧ (busWrite 0x008 .word 0x00000003 s).pend = 0x00000003)

/-- R236: the first error is latched, a later one sets ERROVF only, ERR_IP is set in both cases, nothing else changes, and
an error that stands does not change which commands are accepted. -/
def Obligations.FirstErrorIsLatched : Prop :=
  ∀ (e : EngineError) (s : State),
    (s.status.err = false →
      raiseError e s = { s with
        status := { s.status with err := true, ecode := e.code }
        errinfo := e.info
        intstat := { s.intstat with err := true } }) ∧
    (s.status.err = true →
      raiseError e s = { s with
        status := { s.status with errovf := true }
        intstat := { s.intstat with err := true } }) ∧
    (∀ i, acceptError i (raiseError e s) = acceptError i s)

/-- R237: the error record is cleared only by CLRERR and reset, ERR_IP only by a 1 written to INTSTAT[1] and reset, and the
two are independent. -/
def Obligations.ErrorRecordClearedOnlyBy : Prop :=
  ∀ s t : State, step s = .next t →
    (s.status.err = true →
      (t.status.err = true ∧ t.status.ecode = s.status.ecode ∧ t.errinfo = s.errinfo ∧
        (s.status.errovf = true → t.status.errovf = true)) ∨
      s.agenda.head? = some .reset ∨
      (Safety.EngineNext s ∧ s.status.busy = true ∧ decode s.pend = .ok .clrerr)) ∧
    (s.intstat.err = true →
      t.intstat.err = true ∨
      s.agenda.head? = some .reset ∨
      (∃ v, s.agenda.head? = some (.write (s.params.base + 0x01C) .word v) ∧ v.getLsbD 1 = true)) ∧
    (Safety.EngineNext s → s.status.busy = true → decode s.pend = .ok .clrerr → t.intstat.err = s.intstat.err) ∧
    (∀ v, s.agenda.head? = some (.write (s.params.base + 0x01C) .word v) →
      t.status = s.status ∧ t.errinfo = s.errinfo)

/-- A command completed in a state that fails its checks is turned away as acceptance would, with none of its effect: the
error is recorded and the engine is idle. No run from reset reaches such a state; the choice is the model's (assumption 5),
and so is that PEND and the working values are kept (assumptions 18 and 4). -/
def Obligations.FailedChecksTurnCommandsAway : Prop :=
  ∀ s : State,
    let idle : State := { s with status := { s.status with busy := false } }
    (∀ wb rr, wb = 0 ∨ s.params.wmaxBytes < wb ∨ s.params.rmax < rr →
      exec (.cfg wb rr) s = .next (raiseError ⟨.badConfig, encode (.cfg wb rr)⟩ idle)) ∧
    (255 < s.keylen.toNat → exec .keysched s = .next (raiseError ⟨.keySize, s.keylen.setWidth 32⟩ idle)) ∧
    (s.status.svalid = false →
      exec .enc s = .next (raiseError ⟨.noSchedule, 0x00000004⟩ idle) ∧
      exec .dec s = .next (raiseError ⟨.noSchedule, 0x00000005⟩ idle) ∧
      ∀ idx, exec (.rds idx) s = .next (raiseError ⟨.noSchedule, encode (.rds idx)⟩ idle)) ∧
    (s.status.svalid = true → ∀ idx, s.t ≤ idx →
      exec (.rds idx) s = .next (raiseError ⟨.badIndex, BitVec.ofNat 32 idx⟩ idle))

/-! ### The commands

Where a statement of this part says that nothing else changes, PEND keeps the completed word, and the working values keep
theirs for the six commands that use none: the spec leaves both any value while BUSY = 0, and keeping them is the model's
choice (assumptions 18 and 4). -/

/-- NOP completes in every state and changes BUSY and DONE_IP only (R203; that PEND and the working values are kept is the
model's choice, assumptions 4 and 18). -/
def Obligations.NopCompletes : Prop :=
  ∀ s : State, exec .nop s =
    .next { s with status := { s.status with busy := false }, intstat := { s.intstat with done := true } }

/-- CFG with operands in range completes: w and R are the operands, SVALID and PQVALID are cleared, and nothing else changes
but BUSY and DONE_IP (that PEND and the working values are kept is the model's choice, assumptions 4 and 18). -/
def Obligations.CfgCompletes : Prop :=
  ∀ (s : State) (wb rr : Nat), s.params.Legal → 1 ≤ wb → wb ≤ s.params.wmaxBytes → rr ≤ s.params.rmax →
    ∃ t, exec (.cfg wb rr) s = .next t ∧
      t.w = 8 * wb ∧ t.u = wb ∧ t.rounds = rr ∧
      t = { s with
        status := { s.status with
          busy := false, svalid := false, pqvalid := false, cfgWB := t.status.cfgWB, cfgR := t.status.cfgR }
        intstat := { s.intstat with done := true } }

/-- GENPQ completes: P and Q hold the top w bits of the constant tables with bit 0 forced to 1, zero-extended, PQVALID is
set, and nothing else changes but BUSY and DONE_IP (that PEND and the working values are kept is the model's choice,
assumptions 4 and 18). -/
def Obligations.GenpqCompletes : Prop :=
  ∀ s : State, 1 ≤ s.u → s.u ≤ 32 →
    ∃ t, exec .genpq s = .next t ∧
      t.p.toNat = (erom / 2 ^ (256 - s.w)) ||| 1 ∧ t.q.toNat = (phiRom / 2 ^ (256 - s.w)) ||| 1 ∧
      t.p.toNat < 2 ^ s.w ∧ t.q.toNat < 2 ^ s.w ∧
      t = { s with
        p := t.p
        q := t.q
        status := { s.status with busy := false, pqvalid := true }
        intstat := { s.intstat with done := true } }

/-- R140: the generator's constants are Odd(floor((e - 2) · 2^w)) and Odd(floor((φ - 1) · 2^w)), odd and below 2^w. -/
def Obligations.MagicConstantsAreExact : Prop :=
  ∀ w : Nat, 8 ≤ w → w ≤ 256 →
    (pConst w).toNat = ⌊(Real.exp 1 - 2) * 2 ^ w⌋₊ ||| 1 ∧
    (qConst w).toNat = ⌊(Real.goldenRatio - 1) * 2 ^ w⌋₊ ||| 1 ∧
    (pConst w).toNat % 2 = 1 ∧ (qConst w).toNat % 2 = 1 ∧
    (pConst w).toNat < 2 ^ w ∧ (qConst w).toNat < 2 ^ w

/-- R162: phase 1 gives S[0] = P_w, S[k] = (S[k-1] + Q_w) mod 2^w, and so S[k] = (P_w + k · Q_w) mod 2^w. -/
def Obligations.InitTableClosedForm : Prop :=
  ∀ w t k : Nat, 1 ≤ w → w ≤ 256 → k < t →
    entry (initTable w t) 0 = pConst w ∧
    (1 ≤ k → (entry (initTable w t) k).toNat = ((entry (initTable w t) (k - 1)).toNat + (qConst w).toNat) % 2 ^ w) ∧
    (entry (initTable w t) k).toNat = ((pConst w).toNat + k * (qConst w).toNat) % 2 ^ w

/-- Phase 2 packs key bytes j·u up to min(b, (j+1)·u) - 1 little-endian into word j, and needs at most 255 words for
at most 255 bytes, all 255 of them for w = 8 and b = 255 (R163; the bound is the spec's own inference there). -/
def Obligations.KeyBytesArePacked : Prop :=
  ∀ (u b : Nat) (key : Nat → Byte), 1 ≤ u → u ≤ 32 →
    (∀ ll j, j < ll →
      (entry (packKey u b ll key) j).toNat =
        ∑ k ∈ Finset.Ico (j * u) (min b ((j + 1) * u)), (key k).toNat * 2 ^ (8 * (k - j * u))) ∧
    (b ≤ 255 → ceilDiv b u ≤ 255) ∧ (u = 1 → b = 255 → ceilDiv b u = 255)

/-- The empty key is one key word, 0, and KEYSCHED completes on it with a valid schedule and no error; with a key of one byte or
more the key words are ceil(b/u). From R164, whose mixing with LL' = 1 is `Obligations.KeyschedExpandsKey`. -/
def Obligations.EmptyKeyIsOneZeroWord : Prop :=
  ∀ s : State, 1 ≤ s.u →
    (s.b = 0 →
      s.llEff = 1 ∧ packKey s.u s.b s.llEff (keyByte s) = [0] ∧
      ∃ t, exec .keysched s = .next t ∧ t.status.svalid = true ∧ t.status.err = s.status.err) ∧
    (1 ≤ s.b → s.llEff = (s.b + s.u - 1) / s.u ∧ 1 ≤ s.llEff)

/-- KEYSCHED, with R165 as recurrences over the tables S n, L n and the words A n, B n after n iterations, from the tables
of R162 and R163, with i = n mod T and j = n mod LL'; then the frame: nothing else changes but P, Q, SVALID, PQVALID, the
working values, BUSY and DONE_IP (that PEND is kept is the model's choice, assumption 18). -/
def Obligations.KeyschedExpandsKey : Prop :=
  ∀ s : State, 1 ≤ s.u → s.u ≤ 32 → s.keylen.toNat ≤ 255 → s.t ≤ s.sTab.length → s.lTab.length = 255 →
    let w := s.w
    let T := 2 * (s.status.cfgR.toNat + 1)
    let LL := max ((s.keylen.toNat + s.u - 1) / s.u) 1
    let N := 3 * max T LL
    ∃ t, exec .keysched s = .next t ∧
      (∃ (S L : Nat → Nat → Word) (A B : Nat → Word),
        (∀ k < T, (S 0 k).toNat = ((pConst w).toNat + k * (qConst w).toNat) % 2 ^ w) ∧
        (∀ j < LL, (L 0 j).toNat =
          ∑ k ∈ Finset.range s.u,
            if j * s.u + k < s.keylen.toNat then (s.mem.read (0x100 + (j * s.u + k))).toNat * 2 ^ (8 * k) else 0) ∧
        A 0 = 0 ∧ B 0 = 0 ∧
        (∀ n < N,
          A (n + 1) = rotlW w (addW w (addW w (S n (n % T)) (A n)) (B n)) 3 ∧
          (∀ k < T, S (n + 1) k = if k = n % T then A (n + 1) else S n k) ∧
          B (n + 1) = rotlW w (addW w (addW w (L n (n % LL)) (A (n + 1))) (B n)) (addW w (A (n + 1)) (B n)).toNat ∧
          (∀ k < LL, L (n + 1) k = if k = n % LL then B (n + 1) else L n k)) ∧
        (∀ k < T, entry t.sTab k = S N k) ∧ (∀ k < LL, entry t.lTab k = L N k)) ∧
      (∀ k, T ≤ k → entry t.sTab k = entry s.sTab k) ∧ (∀ k, LL ≤ k → entry t.lTab k = entry s.lTab k) ∧
      t = { s with
        p := pConst w
        q := qConst w
        sTab := t.sTab
        lTab := t.lTab
        work := t.work
        status := { s.status with busy := false, svalid := true, pqvalid := true }
        intstat := { s.intstat with done := true } }

/-- "S[0..T-1] after KEYSCHED is a function of (KEY[0..b-1], b, w, R) alone" (R167, the spec's own inference). -/
def Obligations.KeyScheduleIsDeterministic : Prop :=
  ∀ s s' : State, s.status.cfgWB = s'.status.cfgWB → s.status.cfgR = s'.status.cfgR → s.keylen = s'.keylen →
    1 ≤ s.u → s.keylen.toNat ≤ 255 →
    s.t ≤ s.sTab.length → s.t ≤ s'.sTab.length → s.lTab.length = 255 → s'.lTab.length = 255 →
    (∀ k < s.keylen.toNat, s.mem.read (0x100 + k) = s'.mem.read (0x100 + k)) →
    ∃ t t', exec .keysched s = .next t ∧ exec .keysched s' = .next t' ∧
      ∀ k < s.t, entry t.sTab k = entry t'.sTab k

/-- ENC, as the recurrences of R180 over the words A i, B i after round i; the block is replaced in place, every other byte
and everything else keeps its value but the working values, BUSY and DONE_IP (that PEND is kept is the model's choice,
assumption 18). -/
def Obligations.EncEncryptsBlock : Prop :=
  ∀ s : State, s.status.svalid = true → 1 ≤ s.u → s.u ≤ 32 → s.mem.wf = true →
    ∃ t, exec .enc s = .next t ∧
      (∃ A B : Nat → Word,
        A 0 = addW s.w (blkA s) (entry s.sTab 0) ∧ B 0 = addW s.w (blkB s) (entry s.sTab 1) ∧
        (∀ i < s.rounds,
          A (i + 1) = addW s.w (rotlW s.w (A i ^^^ B i) (B i).toNat) (entry s.sTab (2 * (i + 1))) ∧
          B (i + 1) = addW s.w (rotlW s.w (B i ^^^ A (i + 1)) (A (i + 1)).toNat) (entry s.sTab (2 * (i + 1) + 1))) ∧
        blkA t = A s.rounds ∧ blkB t = B s.rounds) ∧
      (∀ a, a < 0x200 ∨ 0x200 + 2 * s.u ≤ a → t.mem.read a = s.mem.read a) ∧
      t = { s with
        mem := t.mem
        work := t.work
        status := { s.status with busy := false }
        intstat := { s.intstat with done := true } }

/-- DEC, as the recurrences of R184 over the words A i, B i before round i is undone, from i = R down to 1; the block is
replaced in place, every other byte and everything else keeps its value but the working values, BUSY and DONE_IP (that PEND
is kept is the model's choice, assumption 18). -/
def Obligations.DecDecryptsBlock : Prop :=
  ∀ s : State, s.status.svalid = true → 1 ≤ s.u → s.u ≤ 32 → s.mem.wf = true →
    ∃ t, exec .dec s = .next t ∧
      (∃ A B : Nat → Word,
        A s.rounds = blkA s ∧ B s.rounds = blkB s ∧
        (∀ i < s.rounds,
          B i = rotrW s.w (subW s.w (B (i + 1)) (entry s.sTab (2 * (i + 1) + 1))) (A (i + 1)).toNat ^^^ A (i + 1) ∧
          A i = rotrW s.w (subW s.w (A (i + 1)) (entry s.sTab (2 * (i + 1)))) (B i).toNat ^^^ B i) ∧
        blkA t = subW s.w (A 0) (entry s.sTab 0) ∧ blkB t = subW s.w (B 0) (entry s.sTab 1)) ∧
      (∀ a, a < 0x200 ∨ 0x200 + 2 * s.u ≤ a → t.mem.read a = s.mem.read a) ∧
      t = { s with
        mem := t.mem
        work := t.work
        status := { s.status with busy := false }
        intstat := { s.intstat with done := true } }

/-- "DEC after ENC restores the block and ENC after DEC restores the block" (R188, the spec's own inference), for every width,
round count, table and block: every byte of the storage reads as before. -/
def Obligations.DecUndoesEncAndEncUndoesDec : Prop :=
  ∀ s : State, s.status.svalid = true → 1 ≤ s.u → s.u ≤ 32 → s.mem.wf = true →
    (∃ t r, exec .enc s = .next t ∧ exec .dec t = .next r ∧ ∀ a, r.mem.read a = s.mem.read a) ∧
    (∃ t r, exec .dec s = .next t ∧ exec .enc t = .next r ∧ ∀ a, r.mem.read a = s.mem.read a)

/-- RDS with a valid schedule and an index below T completes: SOUT holds S[IDX], its window shows the word little-endian
with bytes u to 31 reading 0, and nothing else changes but BUSY and DONE_IP (that PEND and the working values are kept is
the model's choice, assumptions 4 and 18). -/
def Obligations.RdsReadsTableEntry : Prop :=
  ∀ (s : State) (idx : Nat), s.params.Legal → s.u ≤ s.params.wmaxBytes → s.status.svalid = true → idx < s.t →
    (entry s.sTab idx).toNat < 2 ^ s.w →
    ∃ t, exec (.rds idx) s = .next t ∧ t.sout = entry s.sTab idx ∧
      (∀ k < 32, windowByte t (0x280 + k) = if k < s.u then byteOf (entry s.sTab idx).toNat k else 0) ∧
      t = { s with
        sout := t.sout
        status := { s.status with busy := false }
        intstat := { s.intstat with done := true } }

/-- ZEROIZE completes in every state: every byte of KEY and BLK, KEYLEN, P, Q, SOUT, every entry of S and L is 0, SVALID and
PQVALID are cleared, and nothing else changes but BUSY and DONE_IP (that PEND and the working values are kept is the model's
choice, assumptions 4 and 18). -/
def Obligations.ZeroizeClearsKeyMaterial : Prop :=
  ∀ s : State, ∃ t, exec .zeroize s = .next t ∧
    (∀ a, t.mem.read a = 0) ∧ (∀ k, entry t.sTab k = 0) ∧ (∀ k, entry t.lTab k = 0) ∧
    t.sTab.length = s.params.tmax ∧ t.lTab.length = 255 ∧
    t = { s with
      mem := t.mem
      keylen := 0
      p := 0
      q := 0
      sout := 0
      sTab := t.sTab
      lTab := t.lTab
      status := { s.status with busy := false, svalid := false, pqvalid := false }
      intstat := { s.intstat with done := true } }

/-- CLRERR completes in every state: the record as it stands is cleared, ERR_IP is kept, and nothing else changes but BUSY
and DONE_IP (that PEND and the working values are kept is the model's choice, assumptions 4 and 18). -/
def Obligations.ClrerrClearsErrorRecord : Prop :=
  ∀ s : State, exec .clrerr s =
    .next { s with
      status := { s.status with busy := false, err := false, errovf := false, ecode := .none }
      errinfo := 0
      intstat := { s.intstat with done := true } }

/-- What each accepted command leaves alone, from the effects summary R202 (the spec's own inference). No command writes
INTEN, and INTSTAT changes by DONE_IP only. The working values change for KEYSCHED, ENC and DEC only; that the other
commands keep them and that every command keeps PEND is the model's choice (assumptions 4 and 18); the response and the draw
counter are the model's own fields (assumptions 7 and 8). -/
def Obligations.CommandsWriteOnlyTheirState : Prop :=
  ∀ (i : Instr) (s t : State), acceptError i s = none → s.mem.wf = true → exec i s = .next t →
    t.status.busy = false ∧ t.intstat = { s.intstat with done := true } ∧ t.inten = s.inten ∧
    t.params = s.params ∧ t.pend = s.pend ∧ t.agenda = s.agenda ∧ t.resp = s.resp ∧ t.draws = s.draws ∧
    (i.mnemonic ≠ "CFG" → t.status.cfgWB = s.status.cfgWB ∧ t.status.cfgR = s.status.cfgR) ∧
    (i.mnemonic = "CFG" ∨ i = .zeroize → t.status.svalid = false ∧ t.status.pqvalid = false) ∧
    (i = .keysched → t.status.svalid = true ∧ t.status.pqvalid = true) ∧
    (i = .genpq → t.status.svalid = s.status.svalid ∧ t.status.pqvalid = true) ∧
    (i.mnemonic ∈ ["NOP", "ENC", "DEC", "RDS", "CLRERR"] →
      t.status.svalid = s.status.svalid ∧ t.status.pqvalid = s.status.pqvalid) ∧
    (i ≠ .clrerr → t.status.err = s.status.err ∧ t.status.errovf = s.status.errovf ∧
      t.status.ecode = s.status.ecode ∧ t.errinfo = s.errinfo) ∧
    (i = .clrerr → t.status.err = false ∧ t.status.errovf = false ∧ t.status.ecode = .none ∧ t.errinfo = 0) ∧
    (i ≠ .zeroize → t.keylen = s.keylen) ∧
    (i ∉ [.genpq, .keysched, .zeroize] → t.p = s.p ∧ t.q = s.q) ∧
    (i.mnemonic ≠ "RDS" → i ≠ .zeroize → t.sout = s.sout) ∧
    (i ∉ [.keysched, .zeroize] → t.sTab = s.sTab ∧ t.lTab = s.lTab) ∧
    (i = .keysched → (∀ k, s.t ≤ k → entry t.sTab k = entry s.sTab k) ∧
      ∀ k, s.llEff ≤ k → entry t.lTab k = entry s.lTab k) ∧
    (i ∉ [.enc, .dec, .zeroize] → ∀ a, t.mem.read a = s.mem.read a) ∧
    (i ∈ [.enc, .dec] → ∀ a, a < 0x200 ∨ 0x200 + 2 * s.u ≤ a → t.mem.read a = s.mem.read a) ∧
    (i ∉ [.keysched, .enc, .dec] → t.work = s.work)

/-! ### The datapath and the codec (spec/40_datapath.md) -/

/-- R122 to R125, R127: the word operations as numbers: sum and difference modulo 2^w, rotations by the true modulo of the
amount, exclusive or. -/
def Obligations.WordOperationsMatchFormulas : Prop :=
  ∀ (w : Nat) (x y : Word) (n : Nat), 1 ≤ w → w ≤ 256 → x.toNat < 2 ^ w → y.toNat < 2 ^ w →
    (addW w x y).toNat = (x.toNat + y.toNat) % 2 ^ w ∧
    ((subW w x y).toNat : Int) = ((x.toNat : Int) - (y.toNat : Int)) % (2 : Int) ^ w ∧
    (subW w x y).toNat = (x.toNat + 2 ^ w - y.toNat) % 2 ^ w ∧
    (rotlW w x n).toNat =
      (if n % w = 0 then x.toNat else ((x.toNat <<< (n % w)) ||| (x.toNat >>> (w - n % w))) % 2 ^ w) ∧
    (rotrW w x n).toNat =
      (if n % w = 0 then x.toNat else ((x.toNat >>> (n % w)) ||| (x.toNat <<< (w - n % w))) % 2 ^ w) ∧
    (xorW x y).toNat = x.toNat ^^^ y.toNat ∧ (xorW x y).toNat < 2 ^ w

/-- The laws of the word operations that the spec infers in R132. -/
def Obligations.DatapathLaws : Prop :=
  ∀ (w : Nat) (x y : Word) (m n : Nat), 1 ≤ w → w ≤ 256 → x.toNat < 2 ^ w → y.toNat < 2 ^ w →
    subW w (addW w x y) y = x ∧ addW w (subW w x y) y = x ∧
    rotrW w (rotlW w x n) n = x ∧ rotlW w (rotrW w x n) n = x ∧
    xorW (xorW x y) y = x ∧
    rotlW w x n = rotlW w x (n % w) ∧ rotlW w (rotlW w x m) n = rotlW w x (m + n)

/-- The rotations move bits and lose none: bit k of x is bit (k + n) mod w of rotl_w(x, n), and bit (k + n) mod w of x is bit
k of rotr_w(x, n), with n reduced by true modulo w. -/
def Obligations.RotationMovesBits : Prop :=
  ∀ (w : Nat) (x : Word) (n k : Nat), 1 ≤ w → w ≤ 256 → x.toNat < 2 ^ w → k < w →
    (rotlW w x n).getLsbD ((k + n) % w) = x.getLsbD k ∧ (rotrW w x n).getLsbD k = x.getLsbD ((k + n) % w) ∧
    (rotlW w x n).toNat < 2 ^ w ∧ (rotrW w x n).toNat < 2 ^ w

/-- Byte k of bytes(x) is x[8k+7:8k], and words to bytes and bytes to words are inverse (R129; the inverse laws are the spec's
own inference). -/
def Obligations.CodecRoundTrip : Prop :=
  ∀ u : Nat, u ≤ 32 →
    (∀ x : Word, x.toNat < 2 ^ (8 * u) →
      (bytesOfWord u x).length = u ∧ (∀ k < u, (bytesOfWord u x)[k]? = some (x.extractLsb' (8 * k) 8)) ∧
      wordOfBytes (bytesOfWord u x) = x) ∧
    (∀ z : List Byte, z.length = u → bytesOfWord u (wordOfBytes z) = z)

/-- With V the little-endian value of BLK[0..2u-1], A is the low half of V and B the high half (R130; the spec infers
this from the codec). -/
def Obligations.BlockSplitsIntoHalves : Prop :=
  ∀ s : State, s.u ≤ 32 →
    let V := ∑ k ∈ Finset.range (2 * s.u), (s.mem.read (0x200 + k)).toNat * 2 ^ (8 * k)
    (blkA s).toNat = V % 2 ^ s.w ∧ (blkB s).toNat = V / 2 ^ s.w

/-! ### The bus (spec/20_memory.md) -/

/-- R63, R64: a misaligned access, and a 1- or 2-byte access to offsets 0x000 to 0x01F, get an ERROR response with data 0 and
change nothing. -/
def Obligations.BusErrorChangesNothing : Prop :=
  ∀ (s : State) (off : Nat) (size : AccessSize) (v : Word32),
    (off % size.bytes ≠ 0 ∨ (off < 0x020 ∧ size ≠ .word)) →
    busRead off size s = { s with resp := some ⟨false, 0⟩ } ∧ busWrite off size v s = { s with resp := some ⟨false, 0⟩ }

/-- Reads change nothing of the engine: only the response, and the model's draw counter (assumption 7). -/
def Obligations.ReadsHaveNoSideEffects : Prop :=
  ∀ (s : State) (off : Nat) (size : AccessSize), ∃ r, ∃ d ≥ s.draws,
    busRead off size s = { s with resp := some r, draws := d } ∧ (s.status.busy = false → d = s.draws)

/-- What a read of STATUS returns, bit by bit (the fields of R24), with the number of each error code in ECODE (R230). -/
def Obligations.StatusReadLayout : Prop :=
  ∀ s : State, ∃ v : Word32, busRead 0x00C .word s = { s with resp := some ⟨true, v⟩ } ∧
    v.getLsbD 0 = s.status.busy ∧ v.getLsbD 1 = s.status.svalid ∧ v.getLsbD 2 = s.status.pqvalid ∧
    v.getLsbD 3 = s.status.err ∧ v.getLsbD 4 = s.status.errovf ∧ v.extractLsb' 5 3 = 0 ∧
    v.extractLsb' 8 4 = BitVec.ofNat 4 s.status.ecode.number ∧ v.extractLsb' 12 4 = 0 ∧
    v.extractLsb' 16 8 = s.status.cfgWB ∧ v.extractLsb' 24 8 = s.status.cfgR ∧
    (s.status.ecode = .none → v.extractLsb' 8 4 = 0) ∧ (s.status.ecode = .illegalCmd → v.extractLsb' 8 4 = 1) ∧
    (s.status.ecode = .badConfig → v.extractLsb' 8 4 = 2) ∧ (s.status.ecode = .keySize → v.extractLsb' 8 4 = 3) ∧
    (s.status.ecode = .noSchedule → v.extractLsb' 8 4 = 4) ∧ (s.status.ecode = .badIndex → v.extractLsb' 8 4 = 5) ∧
    (s.status.ecode = .busy → v.extractLsb' 8 4 = 6)

/-- What a read of every other control register returns, busy or not: ID and PARAMS constant, CMD 0, KEYLEN and ERRINFO their
value, INTEN and INTSTAT two bits. -/
def Obligations.ControlRegisterReads : Prop :=
  ∀ s : State, s.params.Legal →
    busRead 0x000 .word s = { s with resp := some ⟨true, 0x52433501⟩ } ∧
    (∃ v : Word32, busRead 0x004 .word s = { s with resp := some ⟨true, v⟩ } ∧
      (v.extractLsb' 0 8).toNat = s.params.wmaxBytes ∧ (v.extractLsb' 8 8).toNat = s.params.rmax ∧
      v.extractLsb' 16 16 = 0) ∧
    busRead 0x008 .word s = { s with resp := some ⟨true, 0⟩ } ∧
    busRead 0x010 .word s = { s with resp := some ⟨true, s.keylen.setWidth 32⟩ } ∧
    busRead 0x014 .word s = { s with resp := some ⟨true, s.errinfo⟩ } ∧
    (∃ v : Word32, busRead 0x018 .word s = { s with resp := some ⟨true, v⟩ } ∧
      v.getLsbD 0 = s.inten.done ∧ v.getLsbD 1 = s.inten.err ∧ v.extractLsb' 2 30 = 0) ∧
    (∃ v : Word32, busRead 0x01C .word s = { s with resp := some ⟨true, v⟩ } ∧
      v.getLsbD 0 = s.intstat.done ∧ v.getLsbD 1 = s.intstat.err ∧ v.extractLsb' 2 30 = 0)

/-- What a write to KEYLEN (idle), INTEN and INTSTAT (busy or not) does: LEN is the low 16 bits, the enables are bits 0 and 1,
a pending bit is cleared by a 1 and kept by a 0; nothing else changes. -/
def Obligations.ControlRegisterWrites : Prop :=
  ∀ (s : State) (v : Word32),
    (s.status.busy = false →
      busWrite 0x010 .word v s = { s with keylen := v.extractLsb' 0 16, resp := some ⟨true, 0⟩ }) ∧
    busWrite 0x018 .word v s =
      { s with inten := ⟨v.getLsbD 0, v.getLsbD 1⟩, resp := some ⟨true, 0⟩ } ∧
    busWrite 0x01C .word v s =
      { s with
        intstat := ⟨s.intstat.done && !v.getLsbD 0, s.intstat.err && !v.getLsbD 1⟩
        resp := some ⟨true, 0⟩ }

/-- What the windows show while idle: the stored bytes of KEY and BLK, byte k of P, Q and SOUT below WMAX/8 and 0 above it, 0
at every reserved offset. -/
def Obligations.WindowBytes : Prop :=
  ∀ s : State, s.params.Legal →
    (∀ k < 256, windowByte s (0x100 + k) = s.mem.read (0x100 + k)) ∧
    (∀ k < 64, windowByte s (0x200 + k) = if k < 2 * s.params.wmaxBytes then s.mem.read (0x200 + k) else 0) ∧
    (∀ k < 32, windowByte s (0x240 + k) = if k < s.params.wmaxBytes then s.p.extractLsb' (8 * k) 8 else 0) ∧
    (∀ k < 32, windowByte s (0x260 + k) = if k < s.params.wmaxBytes then s.q.extractLsb' (8 * k) 8 else 0) ∧
    (∀ k < 32, windowByte s (0x280 + k) = if k < s.params.wmaxBytes then s.sout.extractLsb' (8 * k) 8 else 0) ∧
    (∀ off, off < 0x100 ∨ 0x2A0 ≤ off → windowByte s off = 0)

/-- R65: while idle, an aligned write inside the windows stores byte k of the data at offset a + k where that byte is
writable and changes no other byte and nothing else; an aligned read returns the bytes, little-endian. -/
def Obligations.WindowAccessIsLittleEndian : Prop :=
  ∀ (s : State) (a : Nat) (size : AccessSize) (v : Word32), s.status.busy = false → s.mem.wf = true →
    a % size.bytes = 0 → 0x100 ≤ a → a < 0x2A0 →
    (∃ t, busWrite a size v s = t ∧
      (∀ k < size.bytes, isStored s.params (a + k) = true → t.mem.read (a + k) = v.extractLsb' (8 * k) 8) ∧
      (∀ x, x < a ∨ a + size.bytes ≤ x ∨ isStored s.params x = false → t.mem.read x = s.mem.read x) ∧
      t = { s with mem := t.mem, resp := some ⟨true, 0⟩ }) ∧
    (∃ d : Word32, busRead a size s = { s with resp := some ⟨true, d⟩ } ∧
      d.toNat = ∑ k ∈ Finset.range size.bytes, (windowByte s (a + k)).toNat * 2 ^ (8 * k))

/-- Writes to RO registers and RO windows have an OK response and no effect, whether or not the engine is busy; CMD reads 0
(R67). The same for reserved offsets, which read as 0 (R66); that the reserved BLK bytes read 0 while busy too is assumption
7 (DEDUCED). -/
def Obligations.ReservedAndReadOnlyIgnoreWrites : Prop :=
  ∀ (s : State) (off : Nat) (size : AccessSize) (v : Word32), s.params.Legal →
    off % size.bytes = 0 → (off < 0x020 → size = .word) →
    ((off ∈ [0x000, 0x004, 0x00C, 0x014] ∨
        (0x020 ≤ off ∧ ∀ k < size.bytes, isStored s.params (off + k) = false)) →
      busWrite off size v s = { s with resp := some ⟨true, 0⟩ }) ∧
    ((0x020 ≤ off ∧ ∀ k < size.bytes, isStored s.params (off + k) = false ∧ isResult (off + k) = false) →
      (busRead off size s).resp = some ⟨true, 0⟩) ∧
    (off = 0x008 → (busRead off size s).resp = some ⟨true, 0⟩)

/-- While busy, a write to CMD, KEYLEN, KEY or BLK is ignored and raises BUSY with its offset; INTEN and INTSTAT are written as
ever; every other write has no effect and raises nothing (R280). That a write of several bytes which reaches at least one
byte of KEY or BLK is such a write, ignored whole, is assumption 10 (DEDUCED). -/
def Obligations.BusyWritesAreIgnored : Prop :=
  ∀ (s : State) (off : Nat) (size : AccessSize) (v : Word32), s.status.busy = true →
    off % size.bytes = 0 → (off < 0x020 → size = .word) →
    ((off = 0x008 ∨ off = 0x010 ∨ ∃ k < size.bytes, isStored s.params (off + k) = true) →
      busWrite off size v s = respond ⟨true, 0⟩ (raiseError ⟨.busy, BitVec.ofNat 32 off⟩ s)) ∧
    (off = 0x018 →
      busWrite off size v s = { s with inten := ⟨v.getLsbD 0, v.getLsbD 1⟩, resp := some ⟨true, 0⟩ }) ∧
    (off = 0x01C →
      busWrite off size v s =
        { s with
          intstat := ⟨s.intstat.done && !v.getLsbD 0, s.intstat.err && !v.getLsbD 1⟩
          resp := some ⟨true, 0⟩ }) ∧
    (off ∉ [0x008, 0x010, 0x018, 0x01C] → (∀ k < size.bytes, isStored s.params (off + k) = false) →
      busWrite off size v s = { s with resp := some ⟨true, 0⟩ })

/-- While busy, each byte of KEY, BLK, P, Q or SOUT that a read returns is a free byte, another one for each byte and each read;
control registers and reserved offsets return their values (R281). It holds whatever the free bytes are. The draw counter,
which every read from 0x020 on moves, and the 0 of the reserved BLK bytes are assumption 7 (DEDUCED, DESIGN CHOICE). -/
def Obligations.BusyWindowReadsAreFree : Prop :=
  ∀ (s : State) (off : Nat) (size : AccessSize), s.status.busy = true → s.params.Legal →
    off % size.bytes = 0 → (off < 0x020 → size = .word) →
    (off < 0x020 → (busRead off size s).resp = some ⟨true, readControl off s⟩) ∧
    (0x020 ≤ off → ∃ d : Word32, (busRead off size s).resp = some ⟨true, d⟩ ∧
      (busRead off size s).draws = s.draws + size.bytes ∧
      (∀ k < size.bytes, d.extractLsb' (8 * k) 8 =
        if isStored s.params (off + k) = true ∨ isResult (off + k) = true then Config.freeByte (s.draws + k) else 0))

/-! ### Interrupts (spec/10_state.md R31, spec/60_exceptions.md R239) -/

/-- IRQ is the level R31 gives: each source asserts it by its own enable, a source whose enable is 0 does not, enabling a
pending source asserts it at once, clearing both pending bits drops it, clearing one leaves it while the other is pending
and enabled, a completion with DONE_IE and an error with ERR_IE assert it (R239). -/
def Obligations.InterruptOutputFollowsItsSources : Prop :=
  ∀ (s : State) (v : Word32) (e : EngineError),
    irq s = ((s.intstat.done && s.inten.done) || (s.intstat.err && s.inten.err)) ∧
    (s.inten.done = false → s.intstat.err = false → irq s = false) ∧
    (s.inten.err = false → s.intstat.done = false → irq s = false) ∧
    (s.intstat.err = true → s.inten.err = true → v.getLsbD 1 = false → irq (busWrite 0x01C .word v s) = true) ∧
    (s.intstat.done = true → s.inten.done = true → v.getLsbD 0 = false → irq (busWrite 0x01C .word v s) = true) ∧
    (s.intstat.done = true → v.getLsbD 0 = true → irq (busWrite 0x018 .word v s) = true) ∧
    (s.intstat.err = true → v.getLsbD 1 = true → irq (busWrite 0x018 .word v s) = true) ∧
    (v.getLsbD 0 = true → v.getLsbD 1 = true → irq (busWrite 0x01C .word v s) = false) ∧
    (s.inten.done = true → ∀ i t, acceptError i s = none → exec i s = .next t → irq t = true) ∧
    (s.inten.err = true → irq (raiseError e s) = true) ∧
    (s.inten = ⟨false, false⟩ → irq s = false)

/-! ### Steps and agents -/

/-- A step runs the decoded command: when the engine has the turn, is busy and PEND decodes to i, the step is exec of i, on
the state with the engine's turn taken off the agenda. A machine that placed a command with withFetchWord runs exactly it. -/
def Obligations.StepRunsPendingCommand : Prop :=
  ∀ (s : State) (i : Instr),
    (s.status.busy = true → decode s.pend = .ok i →
      (s.agenda = [] → step s = exec i s) ∧
      (∀ rest, s.agenda = .engine :: rest → step s = exec i { s with agenda := rest })) ∧
    (∀ nbits w, decodeTableWord nbits w = some i →
      step (s.withFetchWord nbits w) =
        exec i { s with status := { s.status with busy := true }, pend := commandOfBits nbits w })

/-- A host access at the head of the agenda is that access at its offset from BASE; an address outside the aperture does not
reach the engine (the model's choice, assumption 9); an idle engine's turn, with an empty agenda or with an engine event at its
head, changes nothing of the engine (R247; the agenda is assumption 2). -/
def Obligations.StepTakesHostAccess : Prop :=
  ∀ (s : State) (rest : List Event) (addr : Nat) (size : AccessSize) (v : Word32),
    (s.agenda = .read addr size :: rest →
      (s.params.base ≤ addr → addr < s.params.base + 4096 →
        step s = .next (busRead (addr - s.params.base) size { s with agenda := rest })) ∧
      (addr < s.params.base ∨ s.params.base + 4096 ≤ addr → step s = .next { s with agenda := rest, resp := none })) ∧
    (s.agenda = .write addr size v :: rest →
      (s.params.base ≤ addr → addr < s.params.base + 4096 →
        step s = .next (busWrite (addr - s.params.base) size v { s with agenda := rest })) ∧
      (addr < s.params.base ∨ s.params.base + 4096 ≤ addr → step s = .next { s with agenda := rest, resp := none })) ∧
    (s.agenda = [] → s.status.busy = false → step s = .next s) ∧
    (s.agenda = .engine :: rest → s.status.busy = false → step s = .next { s with agenda := rest })

/-- R270, R271: a reset is a step of its own, whatever command is pending; it leaves every element R270 gives a value at that
value, DONE_IP and BUSY among them, so the pending command's effect is not applied; the parameters stay. -/
def Obligations.ResetStepAbandonsCommand : Prop :=
  ∀ (s : State) (rest : List Event), s.agenda = .reset :: rest →
    ∃ t, step s = .next t ∧ t.params = s.params ∧ t.agenda = rest ∧
      t.status = { busy := false, svalid := false, pqvalid := false, err := false, errovf := false, ecode := .none,
                   cfgWB := 4, cfgR := 16 } ∧
      t.keylen = 0 ∧ t.errinfo = 0 ∧ t.inten = ⟨false, false⟩ ∧ t.intstat = ⟨false, false⟩ ∧ irq t = false ∧
      (∀ a, t.mem.read a = 0) ∧ t.p = 0 ∧ t.q = 0 ∧ t.sout = 0 ∧
      readControl 0x000 t = 0x52433501 ∧ readControl 0x004 t = paramsValue s.params

/-- What the host reads right after reset, for a part with any parameters; the engine is idle. -/
def Obligations.ResetValues : Prop :=
  ∀ p : Params,
    let s := State.resetWith p
    s.params = p ∧ readControl 0x000 s = 0x52433501 ∧ readControl 0x004 s = paramsValue p ∧
    readControl 0x00C s = 0x10040000 ∧ readControl 0x010 s = 0 ∧ readControl 0x014 s = 0 ∧
    readControl 0x018 s = 0 ∧ readControl 0x01C s = 0 ∧ irq s = false ∧ s.status.busy = false ∧
    (∀ off, windowByte s off = 0)

/-- While busy, a host access leaves everything a command reads as it was: PEND, KEYLEN, KEY, BLK, the configuration, SVALID, S,
and BUSY itself; and the checks of the pending command still answer as they did (R282, the spec's own inference). -/
def Obligations.InputsAreFrozenWhileBusy : Prop :=
  ∀ s t : State, s.status.busy = true → ¬ Safety.EngineNext s → s.agenda.head? ≠ some .reset → step s = .next t →
    t.status.busy = true ∧ t.pend = s.pend ∧ t.keylen = s.keylen ∧ t.mem = s.mem ∧
    t.status.cfgWB = s.status.cfgWB ∧ t.status.cfgR = s.status.cfgR ∧ t.status.svalid = s.status.svalid ∧
    t.sTab = s.sTab ∧ ∀ i, acceptError i t = acceptError i s

/-- The expanded key table changes only when KEYSCHED or ZEROIZE completes, or at reset. -/
def Obligations.TableWrittenOnlyBy : Prop :=
  ∀ s t : State, step s = .next t → t.sTab ≠ s.sTab →
    s.agenda.head? = some .reset ∨
    (Safety.EngineNext s ∧ s.status.busy = true ∧ (decode s.pend = .ok .keysched ∨ decode s.pend = .ok .zeroize))

/-- In a state that meets the invariant, the completion of the pending command raises no error: BUSY drops, DONE_IP is set,
ERR_IP and the error record stay (CLRERR clears the record). -/
def Obligations.AcceptedCommandCannotFail : Prop :=
  ∀ s : State, Safety.Inv s → s.status.busy = true → Safety.EngineNext s →
    ∃ i t, decode s.pend = .ok i ∧ step s = .next t ∧ t.status.busy = false ∧
      t.intstat = { s.intstat with done := true } ∧
      (i ≠ .clrerr → t.status.err = s.status.err ∧ t.status.errovf = s.status.errovf ∧
        t.status.ecode = s.status.ecode ∧ t.errinfo = s.errinfo) ∧
      (i = .clrerr → t.status.err = false ∧ t.status.errovf = false ∧ t.status.ecode = .none ∧ t.errinfo = 0)

/-! ### Whole-machine invariants -/

/-- Right after reset every legal part meets the invariant, whatever the outside will do. -/
def Obligations.ResetMeetsInvariant : Prop :=
  ∀ (p : Params) (agenda : List Event), p.Legal → Safety.Inv { State.resetWith p with agenda := agenda }

/-- Every step keeps the invariant. -/
def Obligations.StepKeepsInvariant : Prop :=
  ∀ s t : State, Safety.Inv s → step s = .next t → Safety.Inv t

/-- No state that meets the invariant stops: its next step answers a next state. -/
def Obligations.InvariantStatesNeverStop : Prop :=
  ∀ s : State, Safety.Inv s → Safety.CanStep s

/-- The invariants of every reachable state that the spec infers in R40. -/
def Obligations.ReachableStatesMeetR40 : Prop :=
  ∀ s : State, Safety.Reachable s →
    (1 ≤ s.status.cfgWB.toNat ∧ s.status.cfgWB.toNat ≤ s.params.wmaxBytes ∧ s.status.cfgR.toNat ≤ s.params.rmax) ∧
    (s.status.svalid = true → ∀ k < s.t, (entry s.sTab k).toNat < 2 ^ s.w) ∧
    (s.status.pqvalid = true →
      s.p = pConst s.w ∧ s.q = qConst s.w ∧ s.p.toNat % 2 = 1 ∧ s.q.toNat % 2 = 1) ∧
    (s.status.err = false → s.status.ecode = .none ∧ s.status.errovf = false ∧ s.errinfo = 0) ∧
    (s.status.busy = false → fetchCommand s = none)

/-- A command that is executing completes: whatever the outside does (a finite agenda), within one step more than the agenda
holds the engine is idle. The fairness R285 asks for is the finiteness of the agenda (assumption 2). -/
def Obligations.BusyEngineBecomesIdle : Prop :=
  ∀ s : State, Safety.Inv s → s.status.busy = true →
    ∃ k ≤ s.agenda.length + 1, ∃ t : State, Safety.StepsTo k s t ∧ t.status.busy = false
end

