-- ==== Sys2Proof/Laws/Memory.lean ====
section
/-! SUPPORT. The laws of the byte storage: a read after a write, the canonical form and what keeps it, and that storages in
canonical form with equal bytes are equal. -/

namespace Sys2Proof.Machine

@[simp] theorem Memory.read_nil (a : Nat) : Memory.read [] a = 0 := rfl

theorem Memory.read_cons (a' : Nat) (v' : Byte) (m : Memory) (a : Nat) :
    Memory.read ((a', v') :: m) a = if a' = a then v' else Memory.read m a := rfl

/-! ### Canonical form -/

theorem Memory.risingFrom_mono {m : Memory} {lo lo' : Nat} (h : Memory.risingFrom lo m = true) (hl : lo' ≤ lo) :
    Memory.risingFrom lo' m = true := by
  cases m with
  | nil => rfl
  | cons c m =>
    obtain ⟨a, v⟩ := c
    simp only [Memory.risingFrom, Bool.and_eq_true, decide_eq_true_eq] at h ⊢
    exact ⟨⟨by omega, h.1.2⟩, h.2⟩

/-- Below the first listed offset every byte reads 0. -/
theorem Memory.read_below {m : Memory} {lo a : Nat} (h : Memory.risingFrom lo m = true) (ha : a < lo) :
    Memory.read m a = 0 := by
  induction m generalizing lo with
  | nil => rfl
  | cons c m ih =>
    obtain ⟨a', v'⟩ := c
    simp only [Memory.risingFrom, Bool.and_eq_true, decide_eq_true_eq] at h
    rw [Memory.read_cons, if_neg (by omega)]
    exact ih h.2 (by omega)

theorem Memory.risingFrom_write {m : Memory} {lo a : Nat} (v : Byte) (h : Memory.risingFrom lo m = true) (ha : lo ≤ a) :
    Memory.risingFrom lo (Memory.write m a v) = true := by
  induction m generalizing lo with
  | nil =>
    unfold Memory.write
    split <;> simp_all [Memory.risingFrom]
  | cons c m ih =>
    obtain ⟨a', v'⟩ := c
    simp only [Memory.risingFrom, Bool.and_eq_true, decide_eq_true_eq] at h
    obtain ⟨⟨hlo, hv⟩, hm⟩ := h
    unfold Memory.write
    split
    · split
      · simp only [Memory.risingFrom, Bool.and_eq_true, decide_eq_true_eq]
        exact ⟨⟨hlo, hv⟩, hm⟩
      · simp only [Memory.risingFrom, Bool.and_eq_true, decide_eq_true_eq]
        exact ⟨⟨ha, ‹_›⟩, ⟨by omega, hv⟩, hm⟩
    · split
      · split
        · exact Memory.risingFrom_mono hm (by omega)
        · simp only [Memory.risingFrom, Bool.and_eq_true, decide_eq_true_eq]
          exact ⟨⟨ha, ‹_›⟩, Memory.risingFrom_mono hm (by omega)⟩
      · simp only [Memory.risingFrom, Bool.and_eq_true, decide_eq_true_eq]
        exact ⟨⟨hlo, hv⟩, ih hm (by omega)⟩

/-- A write keeps the canonical form. -/
theorem Memory.wf_write {m : Memory} (h : m.wf = true) (a : Nat) (v : Byte) : (m.write a v).wf = true :=
  Memory.risingFrom_write v h (Nat.zero_le a)

/-- The empty storage is canonical. -/
@[simp] theorem Memory.wf_nil : Memory.wf [] = true := rfl

theorem Memory.wf_writeBytes {m : Memory} (h : m.wf = true) (a : Nat) (vs : List Byte) :
    (m.writeBytes a vs).wf = true := by
  induction vs generalizing m a with
  | nil => exact h
  | cons v vs ih => exact ih (Memory.wf_write h a v) (a + 1)

theorem storeBytes_wf (p : Params) {m : Memory} (h : m.wf = true) (off : Nat) (vs : List Byte) :
    (storeBytes p m off vs).wf = true := by
  induction vs generalizing m off with
  | nil => exact h
  | cons v vs ih =>
    unfold storeBytes
    split
    · exact ih (Memory.wf_write h off v) (off + 1)
    · exact ih h (off + 1)

theorem withBlock_wf {s : State} (h : s.mem.wf = true) (a b : Word) : (withBlock s a b).wf = true :=
  Memory.wf_writeBytes (Memory.wf_writeBytes h _ _) _ _

/-! ### Read after write -/

theorem Memory.read_write_from {m : Memory} {lo : Nat} (h : Memory.risingFrom lo m = true) (a a' : Nat) (v : Byte) :
    (m.write a v).read a' = if a' = a then v else m.read a' := by
  induction m generalizing lo with
  | nil =>
    unfold Memory.write
    split
    · rename_i hv
      by_cases ha : a' = a <;> simp [ha, hv]
    · rw [Memory.read_cons]
      by_cases ha : a' = a
      · rw [if_pos ha.symm, if_pos ha]
      · rw [if_neg (Ne.symm ha), if_neg ha]
  | cons c m ih =>
    obtain ⟨a₁, v₁⟩ := c
    simp only [Memory.risingFrom, Bool.and_eq_true, decide_eq_true_eq] at h
    obtain ⟨⟨_, hv₁⟩, hm⟩ := h
    unfold Memory.write
    split
    · rename_i hlt
      split
      · rename_i hv
        by_cases ha : a' = a
        · subst ha
          rw [if_pos rfl, Memory.read_cons, if_neg (by omega), Memory.read_below hm (by omega), hv]
        · rw [if_neg ha]
      · rw [Memory.read_cons]
        by_cases ha : a' = a
        · rw [if_pos ha.symm, if_pos ha]
        · rw [if_neg (Ne.symm ha), if_neg ha]
    · split
      · rename_i heq
        subst heq
        split
        · rename_i hv
          by_cases ha : a' = a
          · subst ha
            rw [if_pos rfl, Memory.read_below hm (by omega), hv]
          · rw [if_neg ha, Memory.read_cons, if_neg (Ne.symm ha)]
        · rw [Memory.read_cons, Memory.read_cons]
          by_cases ha : a' = a
          · rw [if_pos ha.symm, if_pos ha]
          · rw [if_neg (Ne.symm ha), if_neg ha, if_neg (Ne.symm ha)]
      · rw [Memory.read_cons, Memory.read_cons, ih hm]
        by_cases h₁ : a₁ = a'
        · rw [if_pos h₁, if_pos h₁, if_neg (by omega)]
        · rw [if_neg h₁, if_neg h₁]

/-- A write changes its own byte and no other. -/
theorem Memory.read_write {m : Memory} (h : m.wf = true) (a a' : Nat) (v : Byte) :
    (m.write a v).read a' = if a' = a then v else m.read a' := Memory.read_write_from h a a' v

/-- Writing consecutive bytes changes those bytes and no other. -/
theorem Memory.read_writeBytes {m : Memory} (h : m.wf = true) (a a' : Nat) (vs : List Byte) :
    (m.writeBytes a vs).read a' = if a ≤ a' ∧ a' < a + vs.length then vs.getD (a' - a) 0 else m.read a' := by
  induction vs generalizing m a with
  | nil =>
    rw [if_neg (by simp only [List.length_nil]; omega)]
    rfl
  | cons v vs ih =>
    rw [Memory.writeBytes, ih (Memory.wf_write h a v) (a + 1), Memory.read_write h]
    simp only [List.length_cons]
    by_cases h₁ : a' = a
    · subst h₁
      rw [if_neg (by omega), if_pos rfl, if_pos (by omega)]
      simp
    · by_cases h₂ : a + 1 ≤ a' ∧ a' < a + 1 + vs.length
      · rw [if_pos h₂, if_pos (by omega)]
        obtain ⟨k, rfl⟩ : ∃ k, a' = a + 1 + k := ⟨a' - (a + 1), by omega⟩
        rw [show a + 1 + k - (a + 1) = k by omega, show a + 1 + k - a = k + 1 by omega, List.getD_cons_succ]
      · rw [if_neg h₂, if_neg h₁, if_neg (by omega)]

/-- A bus store changes the writable bytes it covers and no other byte. -/
theorem read_storeBytes (p : Params) {m : Memory} (h : m.wf = true) (off a : Nat) (vs : List Byte) :
    (storeBytes p m off vs).read a =
      if off ≤ a ∧ a < off + vs.length ∧ isStored p a = true then vs.getD (a - off) 0 else m.read a := by
  induction vs generalizing m off with
  | nil =>
    rw [if_neg (by simp only [List.length_nil]; omega)]
    rfl
  | cons v vs ih =>
    have hwf : (if isStored p off = true then m.write off v else m).wf = true := by
      split
      · exact Memory.wf_write h off v
      · exact h
    rw [storeBytes, ih hwf (off + 1)]
    simp only [List.length_cons]
    by_cases h₁ : a = off
    · subst h₁
      rw [if_neg (by omega)]
      by_cases hs : isStored p a = true
      · rw [if_pos hs, Memory.read_write h, if_pos rfl, if_pos ⟨by omega, by omega, hs⟩]
        simp
      · rw [if_neg hs, if_neg (fun hc => hs hc.2.2)]
    · have hrest : (if isStored p off = true then m.write off v else m).read a = m.read a := by
        split
        · rw [Memory.read_write h, if_neg h₁]
        · rfl
      rw [hrest]
      by_cases h₂ : off + 1 ≤ a ∧ a < off + 1 + vs.length ∧ isStored p a = true
      · rw [if_pos h₂, if_pos ⟨by omega, by omega, h₂.2.2⟩]
        obtain ⟨k, rfl⟩ : ∃ k, a = off + 1 + k := ⟨a - (off + 1), by omega⟩
        rw [show off + 1 + k - (off + 1) = k by omega, show off + 1 + k - off = k + 1 by omega, List.getD_cons_succ]
      · rw [if_neg h₂, if_neg (fun hc => h₂ ⟨by omega, by omega, hc.2.2⟩)]

@[simp] theorem Memory.length_readBytes (m : Memory) (a n : Nat) : (m.readBytes a n).length = n := by
  simp [Memory.readBytes]

/-! ### Which offsets are listed -/

theorem Memory.mem_write {m : Memory} {a : Nat} {v : Byte} {c : Host.Cell} (h : c ∈ m.write a v) :
    c ∈ m ∨ c = (a, v) := by
  induction m with
  | nil =>
    unfold Memory.write at h
    split at h <;> simp_all
  | cons d m ih =>
    obtain ⟨a₁, v₁⟩ := d
    unfold Memory.write at h
    split at h
    · split at h
      · exact .inl h
      · rcases List.mem_cons.1 h with h | h
        · exact .inr h
        · exact .inl h
    · split at h
      · split at h
        · exact .inl (List.mem_cons_of_mem _ h)
        · rcases List.mem_cons.1 h with h | h
          · exact .inr h
          · exact .inl (List.mem_cons_of_mem _ h)
      · rcases List.mem_cons.1 h with h | h
        · exact .inl (h ▸ List.mem_cons_self ..)
        · exact (ih h).imp (List.mem_cons_of_mem _) id

theorem Memory.mem_writeBytes {m : Memory} {a : Nat} {vs : List Byte} {c : Host.Cell} (h : c ∈ m.writeBytes a vs) :
    c ∈ m ∨ (a ≤ c.1 ∧ c.1 < a + vs.length) := by
  induction vs generalizing m a with
  | nil => exact .inl h
  | cons v vs ih =>
    rw [Memory.writeBytes] at h
    simp only [List.length_cons]
    rcases ih h with h | h
    · rcases Memory.mem_write h with h | h
      · exact .inl h
      · subst h
        exact .inr ⟨Nat.le_refl _, by omega⟩
    · exact .inr ⟨by omega, by omega⟩

/-- A bus store lists writable offsets only. -/
theorem mem_storeBytes {p : Params} {m : Memory} {off : Nat} {vs : List Byte} {c : Host.Cell}
    (h : c ∈ storeBytes p m off vs) : c ∈ m ∨ isStored p c.1 = true := by
  induction vs generalizing m off with
  | nil => exact .inl h
  | cons v vs ih =>
    unfold storeBytes at h
    split at h
    · rename_i hs
      rcases ih h with h | h
      · rcases Memory.mem_write h with h | h
        · exact .inl h
        · subst h
          exact .inr hs
      · exact .inr h
    · exact ih h

/-! ### Equal bytes, equal storage -/

theorem Memory.ext_from {m m' : Memory} {lo : Nat} (h : Memory.risingFrom lo m = true)
    (h' : Memory.risingFrom lo m' = true) (hr : ∀ a, m.read a = m'.read a) : m = m' := by
  induction m generalizing m' lo with
  | nil =>
    cases m' with
    | nil => rfl
    | cons c m' =>
      obtain ⟨a, v⟩ := c
      simp only [Memory.risingFrom, Bool.and_eq_true, decide_eq_true_eq] at h'
      have := hr a
      rw [Memory.read_nil, Memory.read_cons, if_pos rfl] at this
      exact absurd this.symm h'.1.2
  | cons c m ih =>
    obtain ⟨a, v⟩ := c
    simp only [Memory.risingFrom, Bool.and_eq_true, decide_eq_true_eq] at h
    cases m' with
    | nil =>
      have := hr a
      rw [Memory.read_nil, Memory.read_cons, if_pos rfl] at this
      exact absurd this h.1.2
    | cons c' m' =>
      obtain ⟨a', v'⟩ := c'
      simp only [Memory.risingFrom, Bool.and_eq_true, decide_eq_true_eq] at h'
      have haa : a = a' := by
        rcases Nat.lt_trichotomy a a' with hlt | heq | hgt
        · have := hr a
          rw [Memory.read_cons, if_pos rfl, Memory.read_cons, if_neg (by omega),
            Memory.read_below h'.2 (by omega)] at this
          exact absurd this h.1.2
        · exact heq
        · have := hr a'
          rw [Memory.read_cons, if_neg (by omega), Memory.read_below h.2 (by omega), Memory.read_cons,
            if_pos rfl] at this
          exact absurd this.symm h'.1.2
      subst haa
      have hv : v = v' := by
        have := hr a
        rwa [Memory.read_cons, if_pos rfl, Memory.read_cons, if_pos rfl] at this
      subst hv
      rw [ih h.2 h'.2 fun b => ?_]
      by_cases hb : a = b
      · subst hb
        rw [Memory.read_below h.2 (by omega), Memory.read_below h'.2 (by omega)]
      · have := hr b
        rwa [Memory.read_cons, if_neg hb, Memory.read_cons, if_neg hb] at this

/-- Storages in canonical form that hold equal bytes are equal. -/
theorem Memory.ext_of_wf {m m' : Memory} (h : m.wf = true) (h' : m'.wf = true) (hr : ∀ a, m.read a = m'.read a) :
    m = m' := Memory.ext_from h h' hr

end Sys2Proof.Machine
end

