-- ==== Sys2Proof/Laws/Datapath.lean ====
section
/-! SUPPORT. What the datapath and the codec compute, as numbers, and their bounds. -/

namespace Sys2Proof.Machine

theorem two_pow_le_cell {w : Nat} (hw : w ≤ 256) : 2 ^ w ≤ 2 ^ 256 := Nat.pow_le_pow_right (by omega) hw

/-- A number below `2^w` fits its cell. -/
theorem toNat_wordOfNat {w n : Nat} (hw : w ≤ 256) (hn : n < 2 ^ w) : (wordOfNat n).toNat = n := by
  rw [wordOfNat, BitVec.toNat_ofNat]
  exact Nat.mod_eq_of_lt (Nat.lt_of_lt_of_le hn (two_pow_le_cell hw))

/-- A number reduced modulo `2^w` fits its cell. -/
theorem toNat_wordOfNat_mod {w : Nat} (hw : w ≤ 256) (n : Nat) : (wordOfNat (n % 2 ^ w)).toNat = n % 2 ^ w :=
  toNat_wordOfNat hw (Nat.mod_lt _ (Nat.two_pow_pos w))

theorem toNat_addW {w : Nat} (hw : w ≤ 256) (x y : Word) : (addW w x y).toNat = (x.toNat + y.toNat) % 2 ^ w :=
  toNat_wordOfNat_mod hw _

theorem toNat_subW {w : Nat} (hw : w ≤ 256) (x y : Word) :
    (subW w x y).toNat = (x.toNat + (2 ^ w - y.toNat % 2 ^ w)) % 2 ^ w := toNat_wordOfNat_mod hw _

theorem toNat_xorW (x y : Word) : (xorW x y).toNat = x.toNat ^^^ y.toNat := BitVec.toNat_xor x y

theorem toNat_rotlW {w : Nat} (hw : w ≤ 256) {x : Word} {n : Nat} (hn : n % w ≠ 0) :
    (rotlW w x n).toNat = ((x.toNat <<< (n % w)) ||| (x.toNat >>> (w - n % w))) % 2 ^ w := by
  rw [rotlW, if_neg hn]
  exact toNat_wordOfNat_mod hw _

theorem toNat_rotrW {w : Nat} (hw : w ≤ 256) {x : Word} {n : Nat} (hn : n % w ≠ 0) :
    (rotrW w x n).toNat = ((x.toNat >>> (n % w)) ||| (x.toNat <<< (w - n % w))) % 2 ^ w := by
  rw [rotrW, if_neg hn]
  exact toNat_wordOfNat_mod hw _

/-! ### Every result is a w-bit word (spec/40_datapath.md R121) -/

theorem addW_lt {w : Nat} (hw : w ≤ 256) (x y : Word) : (addW w x y).toNat < 2 ^ w := by
  rw [toNat_addW hw]
  exact Nat.mod_lt _ (Nat.two_pow_pos w)

theorem subW_lt {w : Nat} (hw : w ≤ 256) (x y : Word) : (subW w x y).toNat < 2 ^ w := by
  rw [toNat_subW hw]
  exact Nat.mod_lt _ (Nat.two_pow_pos w)

theorem xorW_lt {w : Nat} {x y : Word} (hx : x.toNat < 2 ^ w) (hy : y.toNat < 2 ^ w) : (xorW x y).toNat < 2 ^ w := by
  rw [toNat_xorW]
  exact Nat.xor_lt_two_pow hx hy

theorem rotlW_lt {w : Nat} (hw : w ≤ 256) {x : Word} (hx : x.toNat < 2 ^ w) (n : Nat) :
    (rotlW w x n).toNat < 2 ^ w := by
  by_cases hn : n % w = 0
  · rwa [rotlW, if_pos hn]
  · rw [toNat_rotlW hw hn]
    exact Nat.mod_lt _ (Nat.two_pow_pos w)

theorem rotrW_lt {w : Nat} (hw : w ≤ 256) {x : Word} (hx : x.toNat < 2 ^ w) (n : Nat) :
    (rotrW w x n).toNat < 2 ^ w := by
  by_cases hn : n % w = 0
  · rwa [rotrW, if_pos hn]
  · rw [toNat_rotrW hw hn]
    exact Nat.mod_lt _ (Nat.two_pow_pos w)

/-- A w-bit word is a WMAX-bit word. -/
theorem lt_wmax {p : Params} {u n : Nat} (hu : u ≤ p.wmaxBytes) (hn : n < 2 ^ (8 * u)) : n < 2 ^ p.wmax :=
  Nat.lt_of_lt_of_le hn (Nat.pow_le_pow_right (by omega) (by unfold Params.wmax; omega))

/-! ### Codec -/

@[simp] theorem length_toLE (n v : Nat) : (toLE n v).length = n := by simp [toLE]

@[simp] theorem length_bytesOfWord (u : Nat) (x : Word) : (bytesOfWord u x).length = u := length_toLE u _

theorem getElem_toLE (n v k : Nat) (h : k < (toLE n v).length) : (toLE n v)[k] = byteOf v k := by
  simp [toLE]

theorem leVal_lt (bs : List Byte) : leVal bs < 2 ^ (8 * bs.length) := by
  induction bs with
  | nil => simp [leVal]
  | cons b bs ih =>
    have hb := b.isLt
    rw [leVal, List.length_cons, Nat.mul_succ, Nat.pow_add]
    omega

theorem leVal_append (bs cs : List Byte) : leVal (bs ++ cs) = leVal bs + 2 ^ (8 * bs.length) * leVal cs := by
  induction bs with
  | nil => simp [leVal]
  | cons b bs ih =>
    rw [List.cons_append, leVal, ih, leVal, List.length_cons, Nat.mul_succ, Nat.pow_add]
    ring

theorem toLE_succ (n v : Nat) : toLE (n + 1) v = BitVec.ofNat 8 v :: toLE n (v / 256) := by
  simp only [toLE, List.range_succ_eq_map, List.map_cons, List.map_map]
  congr 1
  · simp [byteOf]
  · refine List.map_congr_left fun k _ => ?_
    simp only [Function.comp_apply, byteOf, Nat.succ_eq_add_one]
    rw [Nat.div_div_eq_div_mul, show 256 * 2 ^ (8 * k) = 2 ^ (8 * (k + 1)) by rw [Nat.mul_succ, Nat.pow_add]; ring]

theorem leVal_toLE (n v : Nat) : leVal (toLE n v) = v % 2 ^ (8 * n) := by
  induction n generalizing v with
  | zero => simp [toLE, leVal, Nat.mod_one]
  | succ n ih =>
    rw [toLE_succ, leVal, ih, BitVec.toNat_ofNat, Nat.mul_succ, Nat.add_comm (8 * n) 8, Nat.pow_add,
      Nat.mod_mul]

theorem toLE_leVal (bs : List Byte) : toLE bs.length (leVal bs) = bs := by
  induction bs with
  | nil => rfl
  | cons b bs ih =>
    have hb := b.isLt
    rw [List.length_cons, toLE_succ, leVal]
    congr 1
    · apply BitVec.eq_of_toNat_eq
      rw [BitVec.toNat_ofNat]
      omega
    · rw [show (b.toNat + 256 * leVal bs) / 256 = leVal bs by omega, ih]

theorem toNat_wordOfBytes {bs : List Byte} (h : bs.length ≤ 32) : (wordOfBytes bs).toNat = leVal bs :=
  toNat_wordOfNat (w := 8 * bs.length) (by omega) (leVal_lt bs)

theorem wordOfBytes_lt {bs : List Byte} (h : bs.length ≤ 32) : (wordOfBytes bs).toNat < 2 ^ (8 * bs.length) := by
  rw [toNat_wordOfBytes h]
  exact leVal_lt bs

theorem blkA_lt {s : State} (h : s.u ≤ 32) : (blkA s).toNat < 2 ^ s.w := by
  simpa [blkA, State.w] using wordOfBytes_lt (bs := s.mem.readBytes blkBase s.u) (by simpa using h)

theorem blkB_lt {s : State} (h : s.u ≤ 32) : (blkB s).toNat < 2 ^ s.w := by
  simpa [blkB, State.w] using wordOfBytes_lt (bs := s.mem.readBytes (blkBase + s.u) s.u) (by simpa using h)

/-! ### The tables -/

theorem entry_lt {tab : List Word} {B : Nat} (hB : 0 < B) (h : ∀ x ∈ tab, x.toNat < B) (k : Nat) :
    (entry tab k).toNat < B := by
  unfold entry
  by_cases hk : k < tab.length
  · rw [List.getD_eq_getElem _ _ hk]
    exact h _ (List.getElem_mem hk)
  · rw [List.getD_eq_default _ _ (by omega)]
    simpa using hB

theorem entry_set {tab : List Word} {i : Nat} (hi : i < tab.length) (v : Word) (k : Nat) :
    entry (tab.set i v) k = if k = i then v else entry tab k := by
  unfold entry
  rw [List.getD_eq_getElem?_getD, List.getD_eq_getElem?_getD, List.getElem?_set]
  by_cases h : i = k
  · subst h
    simp [hi]
  · rw [if_neg h, if_neg (Ne.symm h)]

@[simp] theorem length_initTable (w t : Nat) : (initTable w t).length = t := by simp [initTable]

@[simp] theorem length_packKey (u b ll : Nat) (key : Nat → Byte) : (packKey u b ll key).length = ll := by
  simp [packKey]

end Sys2Proof.Machine
end

