-- ==== Sys2Proof/Laws/Bus.lean ====
section
/-! SUPPORT. The register values and the windows as arithmetic: the number STATUS reads as, which offsets hold storage, and a
window byte as a bit field. -/

namespace Sys2Proof.Machine

theorem ECode.number_le (e : ECode) : e.number ≤ 6 := by cases e <;> simp [ECode.number]

/-- The value of STATUS as a number: no field reaches into its neighbour. -/
theorem Status.toNat_value (st : Status) :
    st.value.toNat = st.busy.toNat + st.svalid.toNat * 2 + st.pqvalid.toNat * 4 + st.err.toNat * 8
      + st.errovf.toNat * 16 + st.ecode.number * 256 + st.cfgWB.toNat * 65536 + st.cfgR.toNat * 16777216 := by
  have := st.cfgWB.isLt
  have := st.cfgR.isLt
  have := st.ecode.number_le
  have := st.busy.toNat_le
  have := st.svalid.toNat_le
  have := st.pqvalid.toNat_le
  have := st.err.toNat_le
  have := st.errovf.toNat_le
  simp only [Status.value, BitVec.toNat_ofNat, Nat.reducePow] at *
  exact Nat.mod_eq_of_lt (by omega)

theorem isStored_iff (p : Params) (off : Nat) :
    isStored p off = true ↔ (0x100 ≤ off ∧ off < 0x200) ∨ (0x200 ≤ off ∧ off < 0x200 + 2 * p.wmaxBytes) := by
  simp only [isStored, Bool.or_eq_true, Bool.and_eq_true, decide_eq_true_eq]
  rfl

theorem isResult_iff (off : Nat) : isResult off = true ↔ 0x240 ≤ off ∧ off < 0x2A0 := by
  simp only [isResult, Bool.and_eq_true, decide_eq_true_eq]
  rfl

theorem touchesStored_iff (p : Params) (off n : Nat) :
    touchesStored p off n = true ↔ ∃ k < n, isStored p (off + k) = true := by
  simp [touchesStored]

/-- Byte k of a word as a bit field. -/
theorem byteOf_toNat (x : Word) (k : Nat) : byteOf x.toNat k = x.extractLsb' (8 * k) 8 := by
  apply BitVec.eq_of_toNat_eq
  simp [byteOf, BitVec.extractLsb'_toNat, Nat.shiftRight_eq_div_pow]

end Sys2Proof.Machine
end

