-- ==== Sys2Proof/Laws/Decode.lean ====
section
/-! SUPPORT. The command fields as arithmetic, and what the decoder can answer, said once. -/

namespace Sys2Proof

theorem cmdField_op (c : Word32) : cmdField c 7 0 = c.toNat % 256 := by simp [cmdField]

theorem cmdField_wb (c : Word32) : cmdField c 15 8 = c.toNat / 256 % 256 := by simp [cmdField]

theorem cmdField_rr (c : Word32) : cmdField c 23 16 = c.toNat / 65536 % 256 := by simp [cmdField]

theorem cmdField_idx (c : Word32) : cmdField c 16 8 = c.toNat / 256 % 512 := by simp [cmdField]

/-- The must-be-zero bits `c[31:lo]` of a 32-bit word. -/
theorem cmdField_top (c : Word32) {lo : Nat} (h : lo ≤ 31) : cmdField c 31 lo = c.toNat / 2 ^ lo := by
  rw [cmdField]
  refine Nat.mod_eq_of_lt (Nat.div_lt_of_lt_mul ?_)
  rw [← Nat.pow_add, show lo + (31 - lo + 1) = 32 by omega]
  exact c.isLt

/-- Every answer of the decoder, with the number of the word it comes from. -/
theorem decode_cases {c : Word32} {i : Instr} (h : decode c = .ok i) :
    (i = .nop ∧ c.toNat = 0x00)
      ∨ (∃ wb rr, wb < 256 ∧ rr < 256 ∧ i = .cfg wb rr ∧ c.toNat = rr * 65536 + wb * 256 + 0x01)
      ∨ (i = .genpq ∧ c.toNat = 0x02) ∨ (i = .keysched ∧ c.toNat = 0x03)
      ∨ (i = .enc ∧ c.toNat = 0x04) ∨ (i = .dec ∧ c.toNat = 0x05)
      ∨ (∃ idx, idx < 512 ∧ i = .rds idx ∧ c.toNat = idx * 256 + 0x06)
      ∨ (i = .zeroize ∧ c.toNat = 0x07) ∨ (i = .clrerr ∧ c.toNat = 0x08) := by
  have top8 := cmdField_top c (lo := 8) (by omega)
  have top24 := cmdField_top c (lo := 24) (by omega)
  have top17 := cmdField_top c (lo := 17) (by omega)
  unfold decode at h
  rw [cmdField_op] at h
  split at h <;> (try simp only [ifMbzClear, top8, top17, top24] at h) <;> (try split at h) <;> (try cases h)
  · exact .inl ⟨rfl, by omega⟩
  · refine .inr (.inl ⟨_, _, ?_, ?_, rfl, ?_⟩)
    · rw [cmdField_wb]; omega
    · rw [cmdField_rr]; omega
    · rw [cmdField_wb, cmdField_rr]; omega
  · exact .inr (.inr (.inl ⟨rfl, by omega⟩))
  · exact .inr (.inr (.inr (.inl ⟨rfl, by omega⟩)))
  · exact .inr (.inr (.inr (.inr (.inl ⟨rfl, by omega⟩))))
  · exact .inr (.inr (.inr (.inr (.inr (.inl ⟨rfl, by omega⟩)))))
  · refine .inr (.inr (.inr (.inr (.inr (.inr (.inl ⟨_, ?_, rfl, ?_⟩))))))
    · rw [cmdField_idx]; omega
    · rw [cmdField_idx]; omega
  · exact .inr (.inr (.inr (.inr (.inr (.inr (.inr (.inl ⟨rfl, by omega⟩)))))))
  · exact .inr (.inr (.inr (.inr (.inr (.inr (.inr (.inr ⟨rfl, by omega⟩)))))))

end Sys2Proof
end

