-- ==== Sys2Proof/Laws/State.lean ====
section
/-! SUPPORT. One lemma per field per update of State. -/

namespace Sys2Proof.Machine

@[simp] theorem acceptCommand_params (c : Word32) (s : State) : (acceptCommand c s).params = s.params := rfl
@[simp] theorem acceptCommand_keylen (c : Word32) (s : State) : (acceptCommand c s).keylen = s.keylen := rfl
@[simp] theorem acceptCommand_errinfo (c : Word32) (s : State) : (acceptCommand c s).errinfo = s.errinfo := rfl
@[simp] theorem acceptCommand_inten (c : Word32) (s : State) : (acceptCommand c s).inten = s.inten := rfl
@[simp] theorem acceptCommand_intstat (c : Word32) (s : State) : (acceptCommand c s).intstat = s.intstat := rfl
@[simp] theorem acceptCommand_mem (c : Word32) (s : State) : (acceptCommand c s).mem = s.mem := rfl
@[simp] theorem acceptCommand_p (c : Word32) (s : State) : (acceptCommand c s).p = s.p := rfl
@[simp] theorem acceptCommand_q (c : Word32) (s : State) : (acceptCommand c s).q = s.q := rfl
@[simp] theorem acceptCommand_sout (c : Word32) (s : State) : (acceptCommand c s).sout = s.sout := rfl
@[simp] theorem acceptCommand_sTab (c : Word32) (s : State) : (acceptCommand c s).sTab = s.sTab := rfl
@[simp] theorem acceptCommand_lTab (c : Word32) (s : State) : (acceptCommand c s).lTab = s.lTab := rfl
@[simp] theorem acceptCommand_work (c : Word32) (s : State) : (acceptCommand c s).work = s.work := rfl
@[simp] theorem acceptCommand_resp (c : Word32) (s : State) : (acceptCommand c s).resp = s.resp := rfl
@[simp] theorem acceptCommand_agenda (c : Word32) (s : State) : (acceptCommand c s).agenda = s.agenda := rfl
@[simp] theorem acceptCommand_draws (c : Word32) (s : State) : (acceptCommand c s).draws = s.draws := rfl
@[simp] theorem acceptCommand_status_busy (c : Word32) (s : State) : (acceptCommand c s).status.busy = true := rfl
@[simp] theorem acceptCommand_status_svalid (c : Word32) (s : State) : (acceptCommand c s).status.svalid = s.status.svalid := rfl
@[simp] theorem acceptCommand_status_pqvalid (c : Word32) (s : State) : (acceptCommand c s).status.pqvalid = s.status.pqvalid := rfl
@[simp] theorem acceptCommand_status_err (c : Word32) (s : State) : (acceptCommand c s).status.err = s.status.err := rfl
@[simp] theorem acceptCommand_status_errovf (c : Word32) (s : State) : (acceptCommand c s).status.errovf = s.status.errovf := rfl
@[simp] theorem acceptCommand_status_ecode (c : Word32) (s : State) : (acceptCommand c s).status.ecode = s.status.ecode := rfl
@[simp] theorem acceptCommand_status_cfgWB (c : Word32) (s : State) : (acceptCommand c s).status.cfgWB = s.status.cfgWB := rfl
@[simp] theorem acceptCommand_status_cfgR (c : Word32) (s : State) : (acceptCommand c s).status.cfgR = s.status.cfgR := rfl
@[simp] theorem acceptCommand_pend (c : Word32) (s : State) : (acceptCommand c s).pend = c := rfl

@[simp] theorem finishCommand_params (s : State) : (finishCommand s).params = s.params := rfl
@[simp] theorem finishCommand_keylen (s : State) : (finishCommand s).keylen = s.keylen := rfl
@[simp] theorem finishCommand_errinfo (s : State) : (finishCommand s).errinfo = s.errinfo := rfl
@[simp] theorem finishCommand_inten (s : State) : (finishCommand s).inten = s.inten := rfl
@[simp] theorem finishCommand_mem (s : State) : (finishCommand s).mem = s.mem := rfl
@[simp] theorem finishCommand_p (s : State) : (finishCommand s).p = s.p := rfl
@[simp] theorem finishCommand_q (s : State) : (finishCommand s).q = s.q := rfl
@[simp] theorem finishCommand_sout (s : State) : (finishCommand s).sout = s.sout := rfl
@[simp] theorem finishCommand_sTab (s : State) : (finishCommand s).sTab = s.sTab := rfl
@[simp] theorem finishCommand_lTab (s : State) : (finishCommand s).lTab = s.lTab := rfl
@[simp] theorem finishCommand_pend (s : State) : (finishCommand s).pend = s.pend := rfl
@[simp] theorem finishCommand_work (s : State) : (finishCommand s).work = s.work := rfl
@[simp] theorem finishCommand_resp (s : State) : (finishCommand s).resp = s.resp := rfl
@[simp] theorem finishCommand_agenda (s : State) : (finishCommand s).agenda = s.agenda := rfl
@[simp] theorem finishCommand_draws (s : State) : (finishCommand s).draws = s.draws := rfl
@[simp] theorem finishCommand_status_busy (s : State) : (finishCommand s).status.busy = false := rfl
@[simp] theorem finishCommand_status_svalid (s : State) : (finishCommand s).status.svalid = s.status.svalid := rfl
@[simp] theorem finishCommand_status_pqvalid (s : State) : (finishCommand s).status.pqvalid = s.status.pqvalid := rfl
@[simp] theorem finishCommand_status_err (s : State) : (finishCommand s).status.err = s.status.err := rfl
@[simp] theorem finishCommand_status_errovf (s : State) : (finishCommand s).status.errovf = s.status.errovf := rfl
@[simp] theorem finishCommand_status_ecode (s : State) : (finishCommand s).status.ecode = s.status.ecode := rfl
@[simp] theorem finishCommand_status_cfgWB (s : State) : (finishCommand s).status.cfgWB = s.status.cfgWB := rfl
@[simp] theorem finishCommand_status_cfgR (s : State) : (finishCommand s).status.cfgR = s.status.cfgR := rfl
@[simp] theorem finishCommand_intstat (s : State) : (finishCommand s).intstat = { s.intstat with done := true } := rfl

@[simp] theorem clearErrorRecord_params (s : State) : (clearErrorRecord s).params = s.params := rfl
@[simp] theorem clearErrorRecord_keylen (s : State) : (clearErrorRecord s).keylen = s.keylen := rfl
@[simp] theorem clearErrorRecord_inten (s : State) : (clearErrorRecord s).inten = s.inten := rfl
@[simp] theorem clearErrorRecord_intstat (s : State) : (clearErrorRecord s).intstat = s.intstat := rfl
@[simp] theorem clearErrorRecord_mem (s : State) : (clearErrorRecord s).mem = s.mem := rfl
@[simp] theorem clearErrorRecord_p (s : State) : (clearErrorRecord s).p = s.p := rfl
@[simp] theorem clearErrorRecord_q (s : State) : (clearErrorRecord s).q = s.q := rfl
@[simp] theorem clearErrorRecord_sout (s : State) : (clearErrorRecord s).sout = s.sout := rfl
@[simp] theorem clearErrorRecord_sTab (s : State) : (clearErrorRecord s).sTab = s.sTab := rfl
@[simp] theorem clearErrorRecord_lTab (s : State) : (clearErrorRecord s).lTab = s.lTab := rfl
@[simp] theorem clearErrorRecord_pend (s : State) : (clearErrorRecord s).pend = s.pend := rfl
@[simp] theorem clearErrorRecord_work (s : State) : (clearErrorRecord s).work = s.work := rfl
@[simp] theorem clearErrorRecord_resp (s : State) : (clearErrorRecord s).resp = s.resp := rfl
@[simp] theorem clearErrorRecord_agenda (s : State) : (clearErrorRecord s).agenda = s.agenda := rfl
@[simp] theorem clearErrorRecord_draws (s : State) : (clearErrorRecord s).draws = s.draws := rfl
@[simp] theorem clearErrorRecord_status_busy (s : State) : (clearErrorRecord s).status.busy = s.status.busy := rfl
@[simp] theorem clearErrorRecord_status_svalid (s : State) : (clearErrorRecord s).status.svalid = s.status.svalid := rfl
@[simp] theorem clearErrorRecord_status_pqvalid (s : State) : (clearErrorRecord s).status.pqvalid = s.status.pqvalid := rfl
@[simp] theorem clearErrorRecord_status_err (s : State) : (clearErrorRecord s).status.err = false := rfl
@[simp] theorem clearErrorRecord_status_errovf (s : State) : (clearErrorRecord s).status.errovf = false := rfl
@[simp] theorem clearErrorRecord_status_ecode (s : State) : (clearErrorRecord s).status.ecode = .none := rfl
@[simp] theorem clearErrorRecord_status_cfgWB (s : State) : (clearErrorRecord s).status.cfgWB = s.status.cfgWB := rfl
@[simp] theorem clearErrorRecord_status_cfgR (s : State) : (clearErrorRecord s).status.cfgR = s.status.cfgR := rfl
@[simp] theorem clearErrorRecord_errinfo (s : State) : (clearErrorRecord s).errinfo = 0 := rfl

@[simp] theorem raiseError_params (e : EngineError) (s : State) : (raiseError e s).params = s.params := by unfold raiseError; split <;> simp_all
@[simp] theorem raiseError_keylen (e : EngineError) (s : State) : (raiseError e s).keylen = s.keylen := by unfold raiseError; split <;> simp_all
@[simp] theorem raiseError_inten (e : EngineError) (s : State) : (raiseError e s).inten = s.inten := by unfold raiseError; split <;> simp_all
@[simp] theorem raiseError_mem (e : EngineError) (s : State) : (raiseError e s).mem = s.mem := by unfold raiseError; split <;> simp_all
@[simp] theorem raiseError_p (e : EngineError) (s : State) : (raiseError e s).p = s.p := by unfold raiseError; split <;> simp_all
@[simp] theorem raiseError_q (e : EngineError) (s : State) : (raiseError e s).q = s.q := by unfold raiseError; split <;> simp_all
@[simp] theorem raiseError_sout (e : EngineError) (s : State) : (raiseError e s).sout = s.sout := by unfold raiseError; split <;> simp_all
@[simp] theorem raiseError_sTab (e : EngineError) (s : State) : (raiseError e s).sTab = s.sTab := by unfold raiseError; split <;> simp_all
@[simp] theorem raiseError_lTab (e : EngineError) (s : State) : (raiseError e s).lTab = s.lTab := by unfold raiseError; split <;> simp_all
@[simp] theorem raiseError_pend (e : EngineError) (s : State) : (raiseError e s).pend = s.pend := by unfold raiseError; split <;> simp_all
@[simp] theorem raiseError_work (e : EngineError) (s : State) : (raiseError e s).work = s.work := by unfold raiseError; split <;> simp_all
@[simp] theorem raiseError_resp (e : EngineError) (s : State) : (raiseError e s).resp = s.resp := by unfold raiseError; split <;> simp_all
@[simp] theorem raiseError_agenda (e : EngineError) (s : State) : (raiseError e s).agenda = s.agenda := by unfold raiseError; split <;> simp_all
@[simp] theorem raiseError_draws (e : EngineError) (s : State) : (raiseError e s).draws = s.draws := by unfold raiseError; split <;> simp_all
@[simp] theorem raiseError_status_busy (e : EngineError) (s : State) : (raiseError e s).status.busy = s.status.busy := by unfold raiseError; split <;> simp_all
@[simp] theorem raiseError_status_svalid (e : EngineError) (s : State) : (raiseError e s).status.svalid = s.status.svalid := by unfold raiseError; split <;> simp_all
@[simp] theorem raiseError_status_pqvalid (e : EngineError) (s : State) : (raiseError e s).status.pqvalid = s.status.pqvalid := by unfold raiseError; split <;> simp_all
@[simp] theorem raiseError_status_err (e : EngineError) (s : State) : (raiseError e s).status.err = true := by unfold raiseError; split <;> simp_all
@[simp] theorem raiseError_status_cfgWB (e : EngineError) (s : State) : (raiseError e s).status.cfgWB = s.status.cfgWB := by unfold raiseError; split <;> simp_all
@[simp] theorem raiseError_status_cfgR (e : EngineError) (s : State) : (raiseError e s).status.cfgR = s.status.cfgR := by unfold raiseError; split <;> simp_all
@[simp] theorem raiseError_intstat (e : EngineError) (s : State) : (raiseError e s).intstat = { s.intstat with err := true } := by unfold raiseError; split <;> simp_all

@[simp] theorem turnAway_params (e : EngineError) (s : State) : (turnAway e s).params = s.params := by simp [turnAway]
@[simp] theorem turnAway_keylen (e : EngineError) (s : State) : (turnAway e s).keylen = s.keylen := by simp [turnAway]
@[simp] theorem turnAway_inten (e : EngineError) (s : State) : (turnAway e s).inten = s.inten := by simp [turnAway]
@[simp] theorem turnAway_mem (e : EngineError) (s : State) : (turnAway e s).mem = s.mem := by simp [turnAway]
@[simp] theorem turnAway_p (e : EngineError) (s : State) : (turnAway e s).p = s.p := by simp [turnAway]
@[simp] theorem turnAway_q (e : EngineError) (s : State) : (turnAway e s).q = s.q := by simp [turnAway]
@[simp] theorem turnAway_sout (e : EngineError) (s : State) : (turnAway e s).sout = s.sout := by simp [turnAway]
@[simp] theorem turnAway_sTab (e : EngineError) (s : State) : (turnAway e s).sTab = s.sTab := by simp [turnAway]
@[simp] theorem turnAway_lTab (e : EngineError) (s : State) : (turnAway e s).lTab = s.lTab := by simp [turnAway]
@[simp] theorem turnAway_pend (e : EngineError) (s : State) : (turnAway e s).pend = s.pend := by simp [turnAway]
@[simp] theorem turnAway_work (e : EngineError) (s : State) : (turnAway e s).work = s.work := by simp [turnAway]
@[simp] theorem turnAway_resp (e : EngineError) (s : State) : (turnAway e s).resp = s.resp := by simp [turnAway]
@[simp] theorem turnAway_agenda (e : EngineError) (s : State) : (turnAway e s).agenda = s.agenda := by simp [turnAway]
@[simp] theorem turnAway_draws (e : EngineError) (s : State) : (turnAway e s).draws = s.draws := by simp [turnAway]
@[simp] theorem turnAway_status_busy (e : EngineError) (s : State) : (turnAway e s).status.busy = false := by simp [turnAway]
@[simp] theorem turnAway_status_svalid (e : EngineError) (s : State) : (turnAway e s).status.svalid = s.status.svalid := by simp [turnAway]
@[simp] theorem turnAway_status_pqvalid (e : EngineError) (s : State) : (turnAway e s).status.pqvalid = s.status.pqvalid := by simp [turnAway]
@[simp] theorem turnAway_status_err (e : EngineError) (s : State) : (turnAway e s).status.err = true := by simp [turnAway]
@[simp] theorem turnAway_status_cfgWB (e : EngineError) (s : State) : (turnAway e s).status.cfgWB = s.status.cfgWB := by simp [turnAway]
@[simp] theorem turnAway_status_cfgR (e : EngineError) (s : State) : (turnAway e s).status.cfgR = s.status.cfgR := by simp [turnAway]
@[simp] theorem turnAway_intstat (e : EngineError) (s : State) : (turnAway e s).intstat = { s.intstat with err := true } := by simp [turnAway]

@[simp] theorem generateConstants_params (s : State) : (generateConstants s).params = s.params := rfl
@[simp] theorem generateConstants_keylen (s : State) : (generateConstants s).keylen = s.keylen := rfl
@[simp] theorem generateConstants_errinfo (s : State) : (generateConstants s).errinfo = s.errinfo := rfl
@[simp] theorem generateConstants_inten (s : State) : (generateConstants s).inten = s.inten := rfl
@[simp] theorem generateConstants_intstat (s : State) : (generateConstants s).intstat = s.intstat := rfl
@[simp] theorem generateConstants_mem (s : State) : (generateConstants s).mem = s.mem := rfl
@[simp] theorem generateConstants_sout (s : State) : (generateConstants s).sout = s.sout := rfl
@[simp] theorem generateConstants_sTab (s : State) : (generateConstants s).sTab = s.sTab := rfl
@[simp] theorem generateConstants_lTab (s : State) : (generateConstants s).lTab = s.lTab := rfl
@[simp] theorem generateConstants_pend (s : State) : (generateConstants s).pend = s.pend := rfl
@[simp] theorem generateConstants_work (s : State) : (generateConstants s).work = s.work := rfl
@[simp] theorem generateConstants_resp (s : State) : (generateConstants s).resp = s.resp := rfl
@[simp] theorem generateConstants_agenda (s : State) : (generateConstants s).agenda = s.agenda := rfl
@[simp] theorem generateConstants_draws (s : State) : (generateConstants s).draws = s.draws := rfl
@[simp] theorem generateConstants_status_busy (s : State) : (generateConstants s).status.busy = s.status.busy := rfl
@[simp] theorem generateConstants_status_svalid (s : State) : (generateConstants s).status.svalid = s.status.svalid := rfl
@[simp] theorem generateConstants_status_pqvalid (s : State) : (generateConstants s).status.pqvalid = true := rfl
@[simp] theorem generateConstants_status_err (s : State) : (generateConstants s).status.err = s.status.err := rfl
@[simp] theorem generateConstants_status_errovf (s : State) : (generateConstants s).status.errovf = s.status.errovf := rfl
@[simp] theorem generateConstants_status_ecode (s : State) : (generateConstants s).status.ecode = s.status.ecode := rfl
@[simp] theorem generateConstants_status_cfgWB (s : State) : (generateConstants s).status.cfgWB = s.status.cfgWB := rfl
@[simp] theorem generateConstants_status_cfgR (s : State) : (generateConstants s).status.cfgR = s.status.cfgR := rfl
@[simp] theorem generateConstants_p (s : State) : (generateConstants s).p = pConst s.w := rfl
@[simp] theorem generateConstants_q (s : State) : (generateConstants s).q = qConst s.w := rfl

@[simp] theorem configure_params (wb rr : Nat) (s : State) : (configure wb rr s).params = s.params := rfl
@[simp] theorem configure_keylen (wb rr : Nat) (s : State) : (configure wb rr s).keylen = s.keylen := rfl
@[simp] theorem configure_errinfo (wb rr : Nat) (s : State) : (configure wb rr s).errinfo = s.errinfo := rfl
@[simp] theorem configure_inten (wb rr : Nat) (s : State) : (configure wb rr s).inten = s.inten := rfl
@[simp] theorem configure_intstat (wb rr : Nat) (s : State) : (configure wb rr s).intstat = s.intstat := rfl
@[simp] theorem configure_mem (wb rr : Nat) (s : State) : (configure wb rr s).mem = s.mem := rfl
@[simp] theorem configure_p (wb rr : Nat) (s : State) : (configure wb rr s).p = s.p := rfl
@[simp] theorem configure_q (wb rr : Nat) (s : State) : (configure wb rr s).q = s.q := rfl
@[simp] theorem configure_sout (wb rr : Nat) (s : State) : (configure wb rr s).sout = s.sout := rfl
@[simp] theorem configure_sTab (wb rr : Nat) (s : State) : (configure wb rr s).sTab = s.sTab := rfl
@[simp] theorem configure_lTab (wb rr : Nat) (s : State) : (configure wb rr s).lTab = s.lTab := rfl
@[simp] theorem configure_pend (wb rr : Nat) (s : State) : (configure wb rr s).pend = s.pend := rfl
@[simp] theorem configure_work (wb rr : Nat) (s : State) : (configure wb rr s).work = s.work := rfl
@[simp] theorem configure_resp (wb rr : Nat) (s : State) : (configure wb rr s).resp = s.resp := rfl
@[simp] theorem configure_agenda (wb rr : Nat) (s : State) : (configure wb rr s).agenda = s.agenda := rfl
@[simp] theorem configure_draws (wb rr : Nat) (s : State) : (configure wb rr s).draws = s.draws := rfl
@[simp] theorem configure_status_busy (wb rr : Nat) (s : State) : (configure wb rr s).status.busy = s.status.busy := rfl
@[simp] theorem configure_status_svalid (wb rr : Nat) (s : State) : (configure wb rr s).status.svalid = false := rfl
@[simp] theorem configure_status_pqvalid (wb rr : Nat) (s : State) : (configure wb rr s).status.pqvalid = false := rfl
@[simp] theorem configure_status_err (wb rr : Nat) (s : State) : (configure wb rr s).status.err = s.status.err := rfl
@[simp] theorem configure_status_errovf (wb rr : Nat) (s : State) : (configure wb rr s).status.errovf = s.status.errovf := rfl
@[simp] theorem configure_status_ecode (wb rr : Nat) (s : State) : (configure wb rr s).status.ecode = s.status.ecode := rfl
@[simp] theorem configure_status_cfgWB (wb rr : Nat) (s : State) : (configure wb rr s).status.cfgWB = BitVec.ofNat 8 wb := rfl
@[simp] theorem configure_status_cfgR (wb rr : Nat) (s : State) : (configure wb rr s).status.cfgR = BitVec.ofNat 8 rr := rfl

@[simp] theorem readTableEntry_params (idx : Nat) (s : State) : (readTableEntry idx s).params = s.params := rfl
@[simp] theorem readTableEntry_status (idx : Nat) (s : State) : (readTableEntry idx s).status = s.status := rfl
@[simp] theorem readTableEntry_keylen (idx : Nat) (s : State) : (readTableEntry idx s).keylen = s.keylen := rfl
@[simp] theorem readTableEntry_errinfo (idx : Nat) (s : State) : (readTableEntry idx s).errinfo = s.errinfo := rfl
@[simp] theorem readTableEntry_inten (idx : Nat) (s : State) : (readTableEntry idx s).inten = s.inten := rfl
@[simp] theorem readTableEntry_intstat (idx : Nat) (s : State) : (readTableEntry idx s).intstat = s.intstat := rfl
@[simp] theorem readTableEntry_mem (idx : Nat) (s : State) : (readTableEntry idx s).mem = s.mem := rfl
@[simp] theorem readTableEntry_p (idx : Nat) (s : State) : (readTableEntry idx s).p = s.p := rfl
@[simp] theorem readTableEntry_q (idx : Nat) (s : State) : (readTableEntry idx s).q = s.q := rfl
@[simp] theorem readTableEntry_sTab (idx : Nat) (s : State) : (readTableEntry idx s).sTab = s.sTab := rfl
@[simp] theorem readTableEntry_lTab (idx : Nat) (s : State) : (readTableEntry idx s).lTab = s.lTab := rfl
@[simp] theorem readTableEntry_pend (idx : Nat) (s : State) : (readTableEntry idx s).pend = s.pend := rfl
@[simp] theorem readTableEntry_work (idx : Nat) (s : State) : (readTableEntry idx s).work = s.work := rfl
@[simp] theorem readTableEntry_resp (idx : Nat) (s : State) : (readTableEntry idx s).resp = s.resp := rfl
@[simp] theorem readTableEntry_agenda (idx : Nat) (s : State) : (readTableEntry idx s).agenda = s.agenda := rfl
@[simp] theorem readTableEntry_draws (idx : Nat) (s : State) : (readTableEntry idx s).draws = s.draws := rfl
@[simp] theorem readTableEntry_sout (idx : Nat) (s : State) : (readTableEntry idx s).sout = entry s.sTab idx := rfl

@[simp] theorem expandKey_params (s : State) : (expandKey s).params = s.params := rfl
@[simp] theorem expandKey_keylen (s : State) : (expandKey s).keylen = s.keylen := rfl
@[simp] theorem expandKey_errinfo (s : State) : (expandKey s).errinfo = s.errinfo := rfl
@[simp] theorem expandKey_inten (s : State) : (expandKey s).inten = s.inten := rfl
@[simp] theorem expandKey_intstat (s : State) : (expandKey s).intstat = s.intstat := rfl
@[simp] theorem expandKey_mem (s : State) : (expandKey s).mem = s.mem := rfl
@[simp] theorem expandKey_sout (s : State) : (expandKey s).sout = s.sout := rfl
@[simp] theorem expandKey_pend (s : State) : (expandKey s).pend = s.pend := rfl
@[simp] theorem expandKey_resp (s : State) : (expandKey s).resp = s.resp := rfl
@[simp] theorem expandKey_agenda (s : State) : (expandKey s).agenda = s.agenda := rfl
@[simp] theorem expandKey_draws (s : State) : (expandKey s).draws = s.draws := rfl
@[simp] theorem expandKey_status_busy (s : State) : (expandKey s).status.busy = s.status.busy := rfl
@[simp] theorem expandKey_status_svalid (s : State) : (expandKey s).status.svalid = true := rfl
@[simp] theorem expandKey_status_pqvalid (s : State) : (expandKey s).status.pqvalid = true := rfl
@[simp] theorem expandKey_status_err (s : State) : (expandKey s).status.err = s.status.err := rfl
@[simp] theorem expandKey_status_errovf (s : State) : (expandKey s).status.errovf = s.status.errovf := rfl
@[simp] theorem expandKey_status_ecode (s : State) : (expandKey s).status.ecode = s.status.ecode := rfl
@[simp] theorem expandKey_status_cfgWB (s : State) : (expandKey s).status.cfgWB = s.status.cfgWB := rfl
@[simp] theorem expandKey_status_cfgR (s : State) : (expandKey s).status.cfgR = s.status.cfgR := rfl
@[simp] theorem expandKey_p (s : State) : (expandKey s).p = pConst s.w := rfl
@[simp] theorem expandKey_q (s : State) : (expandKey s).q = qConst s.w := rfl

@[simp] theorem storeBlock_params (ab : Block) (s : State) : (storeBlock ab s).params = s.params := rfl
@[simp] theorem storeBlock_status (ab : Block) (s : State) : (storeBlock ab s).status = s.status := rfl
@[simp] theorem storeBlock_keylen (ab : Block) (s : State) : (storeBlock ab s).keylen = s.keylen := rfl
@[simp] theorem storeBlock_errinfo (ab : Block) (s : State) : (storeBlock ab s).errinfo = s.errinfo := rfl
@[simp] theorem storeBlock_inten (ab : Block) (s : State) : (storeBlock ab s).inten = s.inten := rfl
@[simp] theorem storeBlock_intstat (ab : Block) (s : State) : (storeBlock ab s).intstat = s.intstat := rfl
@[simp] theorem storeBlock_p (ab : Block) (s : State) : (storeBlock ab s).p = s.p := rfl
@[simp] theorem storeBlock_q (ab : Block) (s : State) : (storeBlock ab s).q = s.q := rfl
@[simp] theorem storeBlock_sout (ab : Block) (s : State) : (storeBlock ab s).sout = s.sout := rfl
@[simp] theorem storeBlock_sTab (ab : Block) (s : State) : (storeBlock ab s).sTab = s.sTab := rfl
@[simp] theorem storeBlock_lTab (ab : Block) (s : State) : (storeBlock ab s).lTab = s.lTab := rfl
@[simp] theorem storeBlock_pend (ab : Block) (s : State) : (storeBlock ab s).pend = s.pend := rfl
@[simp] theorem storeBlock_resp (ab : Block) (s : State) : (storeBlock ab s).resp = s.resp := rfl
@[simp] theorem storeBlock_agenda (ab : Block) (s : State) : (storeBlock ab s).agenda = s.agenda := rfl
@[simp] theorem storeBlock_draws (ab : Block) (s : State) : (storeBlock ab s).draws = s.draws := rfl
@[simp] theorem storeBlock_mem (ab : Block) (s : State) : (storeBlock ab s).mem = withBlock s ab.1 ab.2 := rfl

@[simp] theorem encryptInPlace_params (s : State) : (encryptInPlace s).params = s.params := rfl
@[simp] theorem encryptInPlace_status (s : State) : (encryptInPlace s).status = s.status := rfl
@[simp] theorem encryptInPlace_keylen (s : State) : (encryptInPlace s).keylen = s.keylen := rfl
@[simp] theorem encryptInPlace_errinfo (s : State) : (encryptInPlace s).errinfo = s.errinfo := rfl
@[simp] theorem encryptInPlace_inten (s : State) : (encryptInPlace s).inten = s.inten := rfl
@[simp] theorem encryptInPlace_intstat (s : State) : (encryptInPlace s).intstat = s.intstat := rfl
@[simp] theorem encryptInPlace_p (s : State) : (encryptInPlace s).p = s.p := rfl
@[simp] theorem encryptInPlace_q (s : State) : (encryptInPlace s).q = s.q := rfl
@[simp] theorem encryptInPlace_sout (s : State) : (encryptInPlace s).sout = s.sout := rfl
@[simp] theorem encryptInPlace_sTab (s : State) : (encryptInPlace s).sTab = s.sTab := rfl
@[simp] theorem encryptInPlace_lTab (s : State) : (encryptInPlace s).lTab = s.lTab := rfl
@[simp] theorem encryptInPlace_pend (s : State) : (encryptInPlace s).pend = s.pend := rfl
@[simp] theorem encryptInPlace_resp (s : State) : (encryptInPlace s).resp = s.resp := rfl
@[simp] theorem encryptInPlace_agenda (s : State) : (encryptInPlace s).agenda = s.agenda := rfl
@[simp] theorem encryptInPlace_draws (s : State) : (encryptInPlace s).draws = s.draws := rfl

@[simp] theorem decryptInPlace_params (s : State) : (decryptInPlace s).params = s.params := rfl
@[simp] theorem decryptInPlace_status (s : State) : (decryptInPlace s).status = s.status := rfl
@[simp] theorem decryptInPlace_keylen (s : State) : (decryptInPlace s).keylen = s.keylen := rfl
@[simp] theorem decryptInPlace_errinfo (s : State) : (decryptInPlace s).errinfo = s.errinfo := rfl
@[simp] theorem decryptInPlace_inten (s : State) : (decryptInPlace s).inten = s.inten := rfl
@[simp] theorem decryptInPlace_intstat (s : State) : (decryptInPlace s).intstat = s.intstat := rfl
@[simp] theorem decryptInPlace_p (s : State) : (decryptInPlace s).p = s.p := rfl
@[simp] theorem decryptInPlace_q (s : State) : (decryptInPlace s).q = s.q := rfl
@[simp] theorem decryptInPlace_sout (s : State) : (decryptInPlace s).sout = s.sout := rfl
@[simp] theorem decryptInPlace_sTab (s : State) : (decryptInPlace s).sTab = s.sTab := rfl
@[simp] theorem decryptInPlace_lTab (s : State) : (decryptInPlace s).lTab = s.lTab := rfl
@[simp] theorem decryptInPlace_pend (s : State) : (decryptInPlace s).pend = s.pend := rfl
@[simp] theorem decryptInPlace_resp (s : State) : (decryptInPlace s).resp = s.resp := rfl
@[simp] theorem decryptInPlace_agenda (s : State) : (decryptInPlace s).agenda = s.agenda := rfl
@[simp] theorem decryptInPlace_draws (s : State) : (decryptInPlace s).draws = s.draws := rfl

@[simp] theorem zeroizeKeys_params (s : State) : (zeroizeKeys s).params = s.params := rfl
@[simp] theorem zeroizeKeys_errinfo (s : State) : (zeroizeKeys s).errinfo = s.errinfo := rfl
@[simp] theorem zeroizeKeys_inten (s : State) : (zeroizeKeys s).inten = s.inten := rfl
@[simp] theorem zeroizeKeys_intstat (s : State) : (zeroizeKeys s).intstat = s.intstat := rfl
@[simp] theorem zeroizeKeys_pend (s : State) : (zeroizeKeys s).pend = s.pend := rfl
@[simp] theorem zeroizeKeys_work (s : State) : (zeroizeKeys s).work = s.work := rfl
@[simp] theorem zeroizeKeys_resp (s : State) : (zeroizeKeys s).resp = s.resp := rfl
@[simp] theorem zeroizeKeys_agenda (s : State) : (zeroizeKeys s).agenda = s.agenda := rfl
@[simp] theorem zeroizeKeys_draws (s : State) : (zeroizeKeys s).draws = s.draws := rfl
@[simp] theorem zeroizeKeys_status_busy (s : State) : (zeroizeKeys s).status.busy = s.status.busy := rfl
@[simp] theorem zeroizeKeys_status_svalid (s : State) : (zeroizeKeys s).status.svalid = false := rfl
@[simp] theorem zeroizeKeys_status_pqvalid (s : State) : (zeroizeKeys s).status.pqvalid = false := rfl
@[simp] theorem zeroizeKeys_status_err (s : State) : (zeroizeKeys s).status.err = s.status.err := rfl
@[simp] theorem zeroizeKeys_status_errovf (s : State) : (zeroizeKeys s).status.errovf = s.status.errovf := rfl
@[simp] theorem zeroizeKeys_status_ecode (s : State) : (zeroizeKeys s).status.ecode = s.status.ecode := rfl
@[simp] theorem zeroizeKeys_status_cfgWB (s : State) : (zeroizeKeys s).status.cfgWB = s.status.cfgWB := rfl
@[simp] theorem zeroizeKeys_status_cfgR (s : State) : (zeroizeKeys s).status.cfgR = s.status.cfgR := rfl
@[simp] theorem zeroizeKeys_mem (s : State) : (zeroizeKeys s).mem = [] := rfl
@[simp] theorem zeroizeKeys_keylen (s : State) : (zeroizeKeys s).keylen = 0 := rfl
@[simp] theorem zeroizeKeys_p (s : State) : (zeroizeKeys s).p = 0 := rfl
@[simp] theorem zeroizeKeys_q (s : State) : (zeroizeKeys s).q = 0 := rfl
@[simp] theorem zeroizeKeys_sout (s : State) : (zeroizeKeys s).sout = 0 := rfl

@[simp] theorem respond_params (r : BusResp) (s : State) : (respond r s).params = s.params := rfl
@[simp] theorem respond_status (r : BusResp) (s : State) : (respond r s).status = s.status := rfl
@[simp] theorem respond_keylen (r : BusResp) (s : State) : (respond r s).keylen = s.keylen := rfl
@[simp] theorem respond_errinfo (r : BusResp) (s : State) : (respond r s).errinfo = s.errinfo := rfl
@[simp] theorem respond_inten (r : BusResp) (s : State) : (respond r s).inten = s.inten := rfl
@[simp] theorem respond_intstat (r : BusResp) (s : State) : (respond r s).intstat = s.intstat := rfl
@[simp] theorem respond_mem (r : BusResp) (s : State) : (respond r s).mem = s.mem := rfl
@[simp] theorem respond_p (r : BusResp) (s : State) : (respond r s).p = s.p := rfl
@[simp] theorem respond_q (r : BusResp) (s : State) : (respond r s).q = s.q := rfl
@[simp] theorem respond_sout (r : BusResp) (s : State) : (respond r s).sout = s.sout := rfl
@[simp] theorem respond_sTab (r : BusResp) (s : State) : (respond r s).sTab = s.sTab := rfl
@[simp] theorem respond_lTab (r : BusResp) (s : State) : (respond r s).lTab = s.lTab := rfl
@[simp] theorem respond_pend (r : BusResp) (s : State) : (respond r s).pend = s.pend := rfl
@[simp] theorem respond_work (r : BusResp) (s : State) : (respond r s).work = s.work := rfl
@[simp] theorem respond_agenda (r : BusResp) (s : State) : (respond r s).agenda = s.agenda := rfl
@[simp] theorem respond_draws (r : BusResp) (s : State) : (respond r s).draws = s.draws := rfl
@[simp] theorem respond_resp (r : BusResp) (s : State) : (respond r s).resp = some r := rfl

end Sys2Proof.Machine
end

