-- ==== Sys2Proof/Laws/Ops.lean ====
section
/-! SUPPORT. What each shared operation can do, said once: recording an error, running a command, presenting one, a bus
access, a step. Later proofs cite these and unfold nothing. -/

namespace Sys2Proof.Machine

/-! ### Recording an error -/

theorem raiseError_first {s : State} (h : s.status.err = false) (e : EngineError) :
    raiseError e s = { s with status := { s.status with err := true, ecode := e.code }, errinfo := e.info,
                              intstat := { s.intstat with err := true } } := by
  simp [raiseError, h]

theorem raiseError_later {s : State} (h : s.status.err = true) (e : EngineError) :
    raiseError e s = { s with status := { s.status with errovf := true }, intstat := { s.intstat with err := true } } := by
  simp [raiseError, h]

/-- What an error that is already recorded keeps (spec/60_exceptions.md R238). -/
theorem raiseError_keeps_first {s : State} (h : s.status.err = true) (e : EngineError) :
    (raiseError e s).status.ecode = s.status.ecode ∧ (raiseError e s).errinfo = s.errinfo := by
  simp [raiseError_later h]

/-! ### Running a command -/

/-- The effect of a command, without its checks and its completion. -/
def effect : Instr → State → State
  | .nop => id
  | .cfg wb rr => configure wb rr
  | .genpq => generateConstants
  | .keysched => expandKey
  | .enc => encryptInPlace
  | .dec => decryptInPlace
  | .rds idx => readTableEntry idx
  | .zeroize => zeroizeKeys
  | .clrerr => clearErrorRecord

/-- Every command is its checks, its effect and completion. -/
theorem exec_eq (i : Instr) (s : State) : exec i s = runCommand (acceptError i s) (effect i) s := by
  cases i <;> rfl

theorem exec_accepted {i : Instr} {s : State} (h : acceptError i s = none) :
    exec i s = .next (finishCommand (effect i s)) := by
  rw [exec_eq, h]
  rfl

theorem exec_turnedAway {i : Instr} {s : State} {e : EngineError} (h : acceptError i s = some e) :
    exec i s = .next (turnAway e s) := by
  rw [exec_eq, h]
  rfl

/-- A command never stops: it completes, or it is turned away. -/
theorem exec_cases (i : Instr) (s : State) :
    (acceptError i s = none ∧ exec i s = .next (finishCommand (effect i s)))
      ∨ ∃ e, acceptError i s = some e ∧ exec i s = .next (turnAway e s) := by
  cases h : acceptError i s with
  | none => exact .inl ⟨rfl, exec_accepted h⟩
  | some e => exact .inr ⟨e, rfl, exec_turnedAway h⟩

/-- The checks of a command read the parameters, the round count, SVALID and KEYLEN only. -/
theorem acceptError_congr {s t : State} (i : Instr) (hp : t.params = s.params) (hr : t.status.cfgR = s.status.cfgR)
    (hv : t.status.svalid = s.status.svalid) (hk : t.keylen = s.keylen) : acceptError i t = acceptError i s := by
  cases i <;> simp only [acceptError, checkCfg, checkKeysched, checkSchedule, checkRds, State.b, State.t, State.rounds, hp,
    hr, hv, hk] <;> rfl

/-- Recording an error changes no check. -/
theorem acceptError_raiseError (i : Instr) (e : EngineError) (s : State) :
    acceptError i (raiseError e s) = acceptError i s :=
  acceptError_congr i (by simp) (by simp) (by simp) (by simp)

/-! ### Presenting a command -/

theorem presentCommand_cases (c : Word32) (s : State) :
    (s.status.busy = true ∧ presentCommand c s = raiseError ⟨.busy, 0x008⟩ s)
      ∨ (s.status.busy = false ∧ (∃ r, decode c = .error r) ∧ presentCommand c s = raiseError ⟨.illegalCmd, c⟩ s)
      ∨ (s.status.busy = false ∧ ∃ i e, decode c = .ok i ∧ acceptError i s = some e
          ∧ presentCommand c s = raiseError e s)
      ∨ (s.status.busy = false ∧ ∃ i, decode c = .ok i ∧ acceptError i s = none
          ∧ presentCommand c s = acceptCommand c s) := by
  unfold presentCommand
  cases hb : s.status.busy
  · simp only [Bool.false_eq_true, if_false, false_and, false_or, true_and]
    cases hd : decode c with
    | error r => exact .inl ⟨⟨r, rfl⟩, rfl⟩
    | ok i =>
      cases ha : acceptError i s with
      | none => exact .inr (.inr ⟨i, rfl, ha, by simp [ha]⟩)
      | some e => exact .inr (.inl ⟨i, e, rfl, ha, by simp [ha]⟩)
  · exact .inl ⟨rfl, rfl⟩

/-- Presenting a command word records one error or accepts it. -/
theorem presentCommand_raises_or_accepts (c : Word32) (s : State) :
    (∃ e, presentCommand c s = raiseError e s)
      ∨ (s.status.busy = false ∧ ∃ i, decode c = .ok i ∧ acceptError i s = none
          ∧ presentCommand c s = acceptCommand c s) := by
  rcases presentCommand_cases c s with ⟨_, h⟩ | ⟨_, _, h⟩ | ⟨_, i, e, _, _, h⟩ | h
  · exact .inl ⟨_, h⟩
  · exact .inl ⟨_, h⟩
  · exact .inl ⟨e, h⟩
  · exact .inr h

/-! ### Bus accesses -/

/-- A write that reaches no byte of KEY or BLK stores nothing. -/
theorem storeBytes_of_untouched {p : Params} (m : Memory) {off n : Nat} (h : touchesStored p off n = false)
    (vs : List Byte) (hn : vs.length ≤ n) : storeBytes p m off vs = m := by
  induction vs generalizing off n with
  | nil => rfl
  | cons v vs ih =>
    simp only [List.length_cons] at hn
    have h' : ∀ k < n, isStored p (off + k) = false := by simpa [touchesStored] using h
    rw [storeBytes, if_neg (by simpa using h' 0 (by omega))]
    refine ih (n := n - 1) ?_ (by omega)
    simp only [touchesStored, List.any_eq_false, List.mem_range]
    intro k hk
    have := h' (k + 1) (by omega)
    rw [show off + (k + 1) = off + 1 + k by omega] at this
    simp [this]

/-- A read changes the response and the model's draw counter only. -/
theorem busRead_eq (off : Nat) (size : AccessSize) (s : State) :
    ∃ r d, busRead off size s = { s with resp := some r, draws := d } := by
  unfold busRead
  split
  · exact ⟨errorResp, s.draws, rfl⟩
  · split
    · exact ⟨_, s.draws, rfl⟩
    · exact ⟨_, _, rfl⟩

/-- What a write can do besides responding: nothing, record an error, accept a command while idle, write KEYLEN while idle,
write INTEN, clear bits of INTSTAT, or store bytes. Bytes that are not writable change in no case. -/
theorem busWrite_cases (off : Nat) (size : AccessSize) (v : Word32) (s : State) :
    ∃ r s', busWrite off size v s = respond r s'
      ∧ (s' = s
        ∨ (∃ e, s' = raiseError e s)
        ∨ (s.status.busy = false ∧ off = 0x008 ∧ size = .word ∧ ∃ i, decode v = .ok i ∧ acceptError i s = none
            ∧ s' = acceptCommand v s)
        ∨ (s.status.busy = false ∧ off = 0x010 ∧ size = .word ∧ s' = { s with keylen := v.setWidth 16 })
        ∨ (off = 0x018 ∧ size = .word ∧ s' = { s with inten := intBitsOf v })
        ∨ (off = 0x01C ∧ size = .word ∧ s' = { s with intstat := clearInts s.intstat (intBitsOf v) })
        ∨ ((s.status.busy && touchesStored s.params off size.bytes) = false ∧ controlEnd ≤ off
            ∧ s' = { s with mem := storeBytes s.params s.mem off (toLE size.bytes v.toNat) })) := by
  unfold busWrite
  split
  · exact ⟨_, s, rfl, .inl rfl⟩
  · split
    · rename_i hok hoff
      have hw : size = .word := by
        by_contra hs
        exact hok (by simp [isBusError, hoff, hs])
      refine ⟨_, _, rfl, ?_⟩
      unfold writeControl
      split
      · rcases presentCommand_raises_or_accepts v s with ⟨e, h⟩ | ⟨hb, i, hd, ha, h⟩
        · exact .inr (.inl ⟨e, h⟩)
        · exact .inr (.inr (.inl ⟨hb, rfl, hw, i, hd, ha, h⟩))
      · split
        · exact .inr (.inl ⟨_, rfl⟩)
        · exact .inr (.inr (.inr (.inl ⟨by simp_all, rfl, hw, rfl⟩)))
      · exact .inr (.inr (.inr (.inr (.inl ⟨rfl, hw, rfl⟩))))
      · exact .inr (.inr (.inr (.inr (.inr (.inl ⟨rfl, hw, rfl⟩)))))
      · exact .inl rfl
    · refine ⟨_, _, rfl, ?_⟩
      unfold writeWindow
      split
      · exact .inr (.inl ⟨_, rfl⟩)
      · exact .inr (.inr (.inr (.inr (.inr (.inr ⟨by simp_all, by omega, rfl⟩)))))

/-- A host access is the access at its offset, or, outside the aperture, nothing but a lost response. -/
theorem hostAccess_cases (addr : Nat) (access : Nat → State → State) (s : State) :
    (∃ off, s.params.base ≤ addr ∧ addr < s.params.base + 4096 ∧ addr = s.params.base + off
        ∧ hostAccess addr access s = access off s)
      ∨ hostAccess addr access s = { s with resp := none } := by
  unfold hostAccess apertureOffset
  by_cases h : s.params.base ≤ addr ∧ addr < s.params.base + 4096
  · rw [if_pos h]
    exact .inl ⟨addr - s.params.base, h.1, h.2, by omega, rfl⟩
  · rw [if_neg h]
    exact .inr rfl

/-! ### Steps -/

/-- The state with the event at the head of the agenda taken. -/
def popAgenda (s : State) : State := { s with agenda := s.agenda.tail }

theorem popAgenda_of_nil {s : State} (h : s.agenda = []) : popAgenda s = s := by
  cases s
  simp_all [popAgenda]

/-- The engine's turn: an idle engine keeps its state, a busy one runs the command in PEND, or stops if PEND is none. -/
theorem engineStep_cases (s : State) :
    (s.status.busy = false ∧ engineStep s = .next s)
      ∨ (s.status.busy = true ∧ ∃ i, decode s.pend = .ok i ∧ engineStep s = exec i s)
      ∨ (s.status.busy = true ∧ (∃ r, decode s.pend = .error r) ∧ engineStep s = .fault .pendIsNoCommand) := by
  unfold engineStep fetchCommand
  cases hb : s.status.busy
  · exact .inl ⟨rfl, by simp⟩
  · simp only [if_true]
    cases hd : decode s.pend with
    | ok i => exact .inr (.inl ⟨trivial, i, rfl, rfl⟩)
    | error r => exact .inr (.inr ⟨trivial, ⟨r, rfl⟩, rfl⟩)

theorem step_of_nil {s : State} (h : s.agenda = []) : step s = engineStep s := by
  simp [step, takeTurn, h]

theorem step_of_cons {s : State} {e : Event} {rest : List Event} (h : s.agenda = e :: rest) :
    step s = eventStep e { s with agenda := rest } := by
  simp [step, takeTurn, h]

/-- A step is the engine's turn, one host access, or a reset. -/
theorem step_cases (s : State) :
    (step s = engineStep (popAgenda s) ∧ (s.agenda = [] ∨ s.agenda.head? = some .engine))
      ∨ (∃ addr size rest, s.agenda = .read addr size :: rest
          ∧ step s = .next (hostAccess addr (fun off => busRead off size) (popAgenda s)))
      ∨ (∃ addr size v rest, s.agenda = .write addr size v :: rest
          ∧ step s = .next (hostAccess addr (fun off => busWrite off size v) (popAgenda s)))
      ∨ (∃ rest, s.agenda = .reset :: rest ∧ step s = .next (applyReset (popAgenda s))) := by
  cases h : s.agenda with
  | nil => exact .inl ⟨by rw [step_of_nil h, popAgenda_of_nil h], .inl rfl⟩
  | cons e rest =>
    have hp : popAgenda s = { s with agenda := rest } := by simp [popAgenda, h]
    rw [step_of_cons h, hp]
    cases e with
    | read addr size => exact .inr (.inl ⟨addr, size, rest, rfl, rfl⟩)
    | write addr size v => exact .inr (.inr (.inl ⟨addr, size, v, rest, rfl, rfl⟩))
    | engine => exact .inl ⟨rfl, .inr rfl⟩
    | reset => exact .inr (.inr (.inr ⟨rest, rfl, rfl⟩))

end Sys2Proof.Machine
end

