-- ==== Sys2Proof/Laws/PerInstr.lean ====
section
/-! SUPPORT. Facts said of every command as syntax, one lemma per constructor. -/

namespace Sys2Proof.Laws.EncodesOpcode

/-- The number OP of a command (spec/30_encoding.md R95). -/
def opcode : Instr → Nat
  | .nop => 0x00
  | .cfg _ _ => 0x01
  | .genpq => 0x02
  | .keysched => 0x03
  | .enc => 0x04
  | .dec => 0x05
  | .rds _ => 0x06
  | .zeroize => 0x07
  | .clrerr => 0x08

/-- The encoding of a well-formed command has its OP in bits [7:0] and zeros in bits [31:24], which are must-be-zero in all
three formats (spec/30_encoding.md R91 to R95). -/
def Statement (i : Instr) : Prop :=
  i.wellFormed = true → cmdField (encode i) 7 0 = opcode i ∧ cmdField (encode i) 31 24 = 0

theorem nop : Statement .nop := fun _ => by decide

theorem cfg (wb rr : Nat) : Statement (.cfg wb rr) := fun h => by
  simp only [Instr.wellFormed, Bool.and_eq_true, decide_eq_true_eq] at h
  rw [cmdField_op, cmdField_top _ (by omega)]
  simp only [encode, opcode, BitVec.toNat_ofNat]
  omega

theorem genpq : Statement .genpq := fun _ => by decide

theorem keysched : Statement .keysched := fun _ => by decide

theorem enc : Statement .enc := fun _ => by decide

theorem dec : Statement .dec := fun _ => by decide

theorem rds (idx : Nat) : Statement (.rds idx) := fun h => by
  simp only [Instr.wellFormed, decide_eq_true_eq] at h
  rw [cmdField_op, cmdField_top _ (by omega)]
  simp only [encode, opcode, BitVec.toNat_ofNat]
  omega

theorem zeroize : Statement .zeroize := fun _ => by decide

theorem clrerr : Statement .clrerr := fun _ => by decide

end Sys2Proof.Laws.EncodesOpcode
end

