-- ==== Sys2Proof/Tests/Slice0.lean ====
section
/-! SUPPORT. Small tests, each about one step or one function, with results from spec/95_test_vectors.md, and a witness for
the hypotheses of every statement that has some. -/

-- The proofs below run the model in the kernel: one after another, so that few threads stand at once.
set_option Elab.async false

namespace Sys2Proof.Tests

open Sys2Proof.Machine

/-! ### Well-formedness: an ill-formed term for each check -/

theorem test_wf_cfg_wb_too_wide : (Instr.cfg 256 0).wellFormed = false := by decide

theorem test_wf_cfg_rr_too_wide : (Instr.cfg 0 256).wellFormed = false := by decide

theorem test_wf_rds_index_too_wide : (Instr.rds 512).wellFormed = false := by decide

theorem test_wf_largest_operands : (Instr.cfg 255 255).wellFormed = true ∧ (Instr.rds 511).wellFormed = true := by decide

/-! ### Decoding (spec/95_test_vectors.md section 6, spec/30_encoding.md R95) -/

theorem test_decode_nop : decode 0x00000000 = .ok .nop := by decide

theorem test_decode_cfg :
    decode 0x00100401 = .ok (.cfg 4 16) ∧ decode 0x00140601 = .ok (.cfg 6 20) ∧ decode 0x00FF2001 = .ok (.cfg 32 255)
      ∧ decode 0x00000001 = .ok (.cfg 0 0) := by decide

theorem test_decode_genpq : decode 0x00000002 = .ok .genpq := by decide

theorem test_decode_keysched : decode 0x00000003 = .ok .keysched := by decide

theorem test_decode_enc : decode 0x00000004 = .ok .enc := by decide

theorem test_decode_dec : decode 0x00000005 = .ok .dec := by decide

theorem test_decode_rds : decode 0x00002106 = .ok (.rds 33) ∧ decode 0x0001FF06 = .ok (.rds 511) := by decide

theorem test_decode_zeroize : decode 0x00000007 = .ok .zeroize := by decide

theorem test_decode_clrerr : decode 0x00000008 = .ok .clrerr := by decide

theorem test_decode_illegal :
    decode 0x00000104 = .error .mbzBitSet ∧ decode 0x80000003 = .error .mbzBitSet ∧ decode 0x01000001 = .error .mbzBitSet
      ∧ decode 0x00020006 = .error .mbzBitSet ∧ decode 0x00000009 = .error .reservedOpcode
      ∧ decode 0xFFFFFFFF = .error .reservedOpcode := by decide

/-- Every mask covers bits [7:0] and the OP values differ (spec/30_encoding.md R96). -/
theorem test_opcode_rows_disjoint :
    (opcodeTable.all fun r => r.mask &&& 0xFF == 0xFF) = true
      ∧ opcodeTable.Pairwise (fun r r' => r.pattern &&& 0xFF ≠ r'.pattern &&& 0xFF) := by decide

/-! ### Datapath (vectors DP-1, DP-2, KS-8's rotation amount; spec/41_magic.md R144, R145) -/

theorem test_add_sub_48 :
    addW 48 0x123456789ABC 0xFEDCBA987654 = 0x111111111110 ∧ subW 48 0x123456789ABC 0xFEDCBA987654 = 0x13579BE02468 := by
  decide

theorem test_rotl_true_modulo : rotlW 48 0x800000000001 50 = 0x000000000006 := by decide

theorem test_rotr_true_modulo : rotrW 48 0x800000000001 50 = 0x600000000000 ∧ rotrW 24 0x123456 25 = 0x091A2B := by decide

theorem test_rotation_amount_is_word_sum : (addW 48 0x373109F0D137 0xD1C2CB0DB881).toNat % 48 = 24 := by decide

theorem test_magic_64 : pConst 64 = 0xB7E151628AED2A6B ∧ qConst 64 = 0x9E3779B97F4A7C15 := by decide

/-! ### Helpers: small states -/

/-- The state a step answers, and s itself where it stops. -/
def after (s : State) : State :=
  match step s with
  | .next t => t
  | .fault _ => s
  | .refused _ => s

/-- The step on s answers a next state. -/
def goesOn (s : State) : Bool :=
  match step s with
  | .next _ => true
  | .fault _ => false
  | .refused _ => false

theorem step_of_goesOn {s : State} (h : goesOn s = true) : step s = .next (after s) := by
  unfold goesOn at h
  unfold after
  split at h
  · simp_all
  · cases h
  · cases h

/-- The step on s with command word c placed for the engine. -/
def run (c : Nat) (s : State) : State := after (s.withFetchWord 32 c)

/-- The reset state with width wb bytes and r rounds. -/
def sized (wb r : Nat) : State := configure wb r State.reset

/-- A state with a valid schedule whose table starts with the given entries, and the given block bytes. -/
def ready (wb r : Nat) (tab : List Word) (blk : List Byte) : State :=
  { sized wb r with
    sTab := tab ++ List.replicate (State.reset.params.tmax - tab.length) 0
    mem := Memory.writeBytes [] blkBase blk
    status := { (sized wb r).status with svalid := true } }

/-- A state with key bytes and their count. -/
def keyed (wb r : Nat) (key : List Byte) : State :=
  { sized wb r with mem := Memory.writeBytes [] keyBase key, keylen := BitVec.ofNat 16 key.length }

/-- The reset state with a command accepted and not completed. -/
def pending (c : Word32) : State := acceptCommand c State.reset

/-- The data of the response to a read. -/
def readBack (off : Nat) (size : AccessSize) (s : State) : Option BusResp := (busRead off size s).resp

/-! ### One step of each command -/

/-- CT-1. -/
theorem test_nop : (run 0x00 State.reset).status.value = 0x10040000 ∧ (run 0x00 State.reset).intstat.value = 0x1 := by decide +kernel

/-- CT-2. -/
theorem test_cfg : (run 0x00140601 (ready 4 16 [] [])).status.value = 0x14060000 := by decide +kernel

/-- ER-3, ER-4: out of range by one. -/
theorem test_cfg_out_of_range :
    (busWrite 0x008 .word 0x000C0901 State.reset).status.value = 0x10040208
      ∧ (busWrite 0x008 .word 0x00210401 State.reset).errinfo = 0x00210401 := by decide +kernel

/-- MG-1, w = 8: forcing bit 0 changes Q. -/
theorem test_genpq_8 : (run 0x02 (sized 1 0)).p = 0xB7 ∧ (run 0x02 (sized 1 0)).q = 0x9F := by decide +kernel

/-- MG-1, w = 48: window bytes, 0 at and above u, and STATUS. -/
theorem test_genpq_48 :
    readBack 0x240 .word (run 0x02 (sized 6 0)) = some ⟨true, 0x51628AED⟩
      ∧ readBack 0x244 .word (run 0x02 (sized 6 0)) = some ⟨true, 0x0000B7E1⟩
      ∧ (run 0x02 (sized 6 0)).status.value = 0x00060004 := by decide +kernel

/-- KS-4: the empty key. -/
theorem test_keysched_empty_key :
    (run 0x03 (keyed 2 0 [])).sTab.take 2 = [0x7865, 0x33F4] ∧ (run 0x03 (keyed 2 0 [])).status.value = 0x00020006 := by
  decide +kernel

/-- KS-8, w = 24: the rotation amount is the w-bit sum, and the last key word is partial. -/
theorem test_keysched_24 :
    (run 0x03 (keyed 3 12 [0x0, 0x1, 0x2, 0x3, 0x4, 0x5, 0x6, 0x7, 0x8, 0x9, 0xA, 0xB, 0xC, 0xD, 0xE, 0xF])).sTab.take 4
      = [0xA6EFDD, 0x373312, 0x4B94AA, 0x5A6F0D] := by decide +kernel

/-- EN-1: whitening and round 1, with the first entries of KS-1's table; the byte after the block keeps its value. -/
theorem test_enc_round :
    let s := run 0x04 (ready 4 1 [0xBC25C068, 0x17A5FF72, 0xB6CB381D, 0x53172258] [1, 0, 0, 0, 0, 0, 0, 0, 0xAA])
    (blkA s, blkB s) = (0xB339E61D, 0x47AAA585) ∧ s.mem.read 0x208 = 0xAA := by decide +kernel

/-- EN-2: zero rounds. -/
theorem test_enc_zero_rounds :
    (run 0x04 (ready 4 0 [0x1DB8F6F7, 0x7CD58FF1] [1])).mem.readBytes 0x200 8
      = [0xF8, 0xF6, 0xB8, 0x1D, 0xF1, 0x8F, 0xD5, 0x7C] := by decide +kernel

/-- EN-1 read backwards. -/
theorem test_dec_round :
    let s := run 0x05 (ready 4 1 [0xBC25C068, 0x17A5FF72, 0xB6CB381D, 0x53172258]
      [0x1D, 0xE6, 0x39, 0xB3, 0x85, 0xA5, 0xAA, 0x47])
    (blkA s, blkB s) = (0x00000001, 0x00000000) := by decide +kernel

/-- EN-10, DEC of a block never encrypted. -/
theorem test_dec_zero_rounds :
    (run 0x05 (ready 4 0 [0x4DBA7B7A, 0x1E1D1179] [])).mem.readBytes 0x200 8
      = [0x86, 0x84, 0x45, 0xB2, 0x87, 0xEE, 0xE2, 0xE1] := by decide +kernel

/-- CT-5, and R = 0 has the last index 1. -/
theorem test_rds :
    readBack 0x280 .word (run 0x0106 (ready 4 0 [0xBC25C068, 0x17A5FF72] [])) = some ⟨true, 0x17A5FF72⟩
      ∧ readBack 0x284 .word (run 0x0106 (ready 4 0 [0xBC25C068, 0x17A5FF72] [])) = some ⟨true, 0⟩ := by decide +kernel

/-- ER-7, ER-8: no schedule is checked before the index. -/
theorem test_rds_rejected :
    (busWrite 0x008 .word 0x00000006 State.reset).status.value = 0x10040408
      ∧ (busWrite 0x008 .word 0x00002206 (ready 4 16 [] [])).status.value = 0x1004050A
      ∧ (busWrite 0x008 .word 0x00002206 (ready 4 16 [] [])).errinfo = 0x22 := by decide +kernel

/-- CT-6. -/
theorem test_zeroize :
    let s := run 0x07 (ready 4 16 [5] [6])
    s.status.value = 0x10040000 ∧ entry s.sTab 0 = 0 ∧ s.mem = [] := by decide +kernel

/-- CT-7: ERR_IP stays. -/
theorem test_clrerr :
    let s := run 0x08 (busWrite 0x008 .word 0x00000009 State.reset)
    s.status.value = 0x10040000 ∧ s.errinfo = 0 ∧ s.intstat.value = 0x3 := by decide +kernel

/-! ### Errors, bus, reset, interrupts -/

/-- ER-1, ER-10: ILLEGAL_CMD is checked before NO_SCHEDULE. -/
theorem test_illegal_command :
    (busWrite 0x008 .word 0x00000009 State.reset).status.value = 0x10040108
      ∧ (busWrite 0x008 .word 0x00000104 State.reset).errinfo = 0x00000104 := by decide +kernel

/-- ER-5. -/
theorem test_key_size :
    let s := busWrite 0x008 .word 0x00000003 (busWrite 0x010 .word 0x100 State.reset)
    s.status.value = 0x10040308 ∧ s.errinfo = 0x100 ∧ s.intstat.value = 0x2 := by decide +kernel

/-- ER-9. -/
theorem test_second_error :
    let s := busWrite 0x008 .word 0x00000004 (busWrite 0x008 .word 0x00000009 State.reset)
    s.status.value = 0x10040118 ∧ s.errinfo = 0x00000009 := by decide +kernel

/-- ER-11. -/
theorem test_busy_write :
    let s := busWrite 0x203 .byte 0xFF (pending 0x03)
    s.status.value = 0x10040609 ∧ s.errinfo = 0x203 ∧ s.mem = [] ∧ s.intstat.value = 0x2 := by decide +kernel

/-- BUS-2, BUS-3, BUS-6. -/
theorem test_bus_reads :
    readBack 0x004 .word State.reset = some ⟨true, 0x00002008⟩ ∧ readBack 0x00C .byte State.reset = some ⟨false, 0⟩
      ∧ readBack 0x201 .half State.reset = some ⟨false, 0⟩ := by decide +kernel

/-- BUS-7. -/
theorem test_bus_lanes :
    let s := busWrite 0x100 .word 0x44332211 State.reset
    readBack 0x100 .byte s = some ⟨true, 0x11⟩ ∧ readBack 0x103 .byte s = some ⟨true, 0x44⟩
      ∧ readBack 0x102 .half s = some ⟨true, 0x4433⟩ := by decide +kernel

/-- BUS-11: BLK bytes at and above 2 · WMAX / 8 are reserved. -/
theorem test_bus_reserved_block_byte :
    (busWrite 0x210 .byte 0x55 State.reset).mem = [] ∧ (busWrite 0x20F .byte 0x55 State.reset).mem = [(0x20F, 0x55)] := by decide +kernel

/-- BUS-12. -/
theorem test_bus_write_one_to_clear :
    (busWrite 0x01C .word 0x2 { State.reset with intstat := ⟨true, true⟩ }).intstat.value = 0x1 := by decide +kernel

/-- RS-2. -/
theorem test_reset_while_busy :
    (after { pending 0x03 with agenda := [.reset] }).status.value = 0x10040000
      ∧ (after { pending 0x03 with agenda := [.reset] }).intstat.value = 0 := by decide +kernel

/-- IRQ-1: enabling a pending source asserts IRQ at once. -/
theorem test_irq :
    irq { State.reset with intstat := ⟨true, true⟩ } = false
      ∧ irq (busWrite 0x018 .word 0x1 { State.reset with intstat := ⟨true, true⟩ }) = true := by decide +kernel

/-! ### Witnesses: encoding and acceptance -/

theorem witness_DecodeEncodeRoundTrip :
    (Instr.cfg 255 255).wellFormed = true ∧ (Instr.cfg 0 0).wellFormed = true ∧ (Instr.rds 511).wellFormed = true
      ∧ Instr.enc.wellFormed = true := by decide +kernel

theorem witness_EncodeDecodeRoundTrip : decode 0x0001FF06 = .ok (.rds 511) ∧ decode 0x00FFFF01 = .ok (.cfg 255 255) := by decide +kernel

theorem witness_DecoderAgreesWithOpcodeMap :
    decode 0x00FF2001 = .ok (.cfg 32 255)
      ∧ ∃ r ∈ opcodeTable, r.matchesWord 0x0001FF06 = true := by decide +kernel

theorem witness_IllegalWordsAreRejected :
    State.reset.status.busy = false ∧ 9 ≤ cmdField 0x00000009 7 0 ∧ 9 ≤ cmdField 0xFFFFFFFF 7 0
      ∧ (∃ r ∈ opcodeTable, cmdField 0x00000104 7 0 = cmdField r.pattern 7 0 ∧ r.matchesWord 0x00000104 = false)
      ∧ (State.reset.params.wmaxBytes < 9 ∧ 9 < 256) ∧ (State.reset.params.rmax < 33 ∧ 33 < 256)
      ∧ ((ready 4 0 [] []).status.busy = false ∧ (ready 4 0 [] []).status.svalid = true ∧ (ready 4 0 [] []).t ≤ 2) := by decide +kernel

/-- One state for each clause: busy, idle at reset (no schedule, key length 0), key length 256, idle with a schedule. -/
theorem witness_AcceptanceChecksInOrder :
    (pending 0x03).status.busy = true ∧ State.reset.status.busy = false
      ∧ (∀ r ∈ opcodeTable, r.matchesWord 0x00000009 = false)
      ∧ (8 ≤ State.reset.params.wmaxBytes ∧ 32 ≤ State.reset.params.rmax ∧ State.reset.params.wmaxBytes < 9)
      ∧ (255 < { State.reset with keylen := 256 }.keylen.toNat ∧ { State.reset with keylen := 255 }.keylen.toNat ≤ 255)
      ∧ State.reset.status.svalid = false
      ∧ ((ready 4 0 [] []).status.busy = false ∧ (ready 4 0 [] []).status.svalid = true ∧ 1 < (ready 4 0 [] []).t
          ∧ (ready 4 0 [] []).t ≤ 2)
      ∧ decode 0x04 = .ok .enc ∧ (busWrite 0x008 .word 0x04 (ready 4 0 [] [])).status.busy = true := by decide +kernel

theorem witness_KeySizeIsChecked :
    State.reset.status.busy = false ∧ State.reset.status.err = false
      ∧ 255 < { State.reset with keylen := 256 }.keylen.toNat ∧ { State.reset with keylen := 255 }.keylen.toNat = 255 := by decide +kernel

theorem witness_FirstErrorIsLatched :
    State.reset.status.err = false ∧ (busWrite 0x008 .word 0x09 State.reset).status.err = true := by decide +kernel

/-- The reset state with an error recorded. -/
def failed : State := busWrite 0x008 .word 0x09 State.reset

/-- An error that stands: with an idle engine, with CLRERR pending, before a reset, and before a write that clears ERR_IP. -/
theorem witness_ErrorRecordClearedOnlyBy :
    (failed.status.err = true ∧ failed.intstat.err = true ∧ step failed = .next (after failed))
      ∧ (step (acceptCommand 0x08 failed) = .next (after (acceptCommand 0x08 failed))
          ∧ Safety.EngineNext (acceptCommand 0x08 failed) ∧ (acceptCommand 0x08 failed).status.busy = true
          ∧ decode (acceptCommand 0x08 failed).pend = .ok .clrerr)
      ∧ step { failed with agenda := [.reset] } = .next (after { failed with agenda := [.reset] })
      ∧ step { failed with agenda := [.write 0x01C .word 2] } = .next (after { failed with agenda := [.write 0x01C .word 2] })
      ∧ { failed with agenda := [.write 0x01C .word 2] }.agenda.head?
          = some (.write (failed.params.base + 0x01C) .word 2) :=
  ⟨⟨by decide +kernel, by decide +kernel, step_of_goesOn (by decide +kernel)⟩,
    ⟨step_of_goesOn (by decide +kernel), .inl rfl, rfl, by decide⟩, step_of_goesOn (by decide +kernel),
    step_of_goesOn (by decide +kernel), rfl⟩

theorem witness_FailedChecksTurnCommandsAway :
    State.reset.params.wmaxBytes < 9 ∧ State.reset.params.rmax < 33
      ∧ 255 < { State.reset with keylen := 256 }.keylen.toNat ∧ State.reset.status.svalid = false
      ∧ (ready 4 0 [] []).status.svalid = true ∧ (ready 4 0 [] []).t ≤ 2 := by decide +kernel

/-! ### Witnesses: commands -/

theorem witness_CfgCompletes :
    State.reset.params.Legal ∧ (1 ≤ 1 ∧ 1 ≤ State.reset.params.wmaxBytes ∧ 0 ≤ State.reset.params.rmax)
      ∧ (1 ≤ 8 ∧ 8 ≤ State.reset.params.wmaxBytes ∧ 32 ≤ State.reset.params.rmax) := by decide +kernel

theorem witness_GenpqCompletes : 1 ≤ (sized 1 0).u ∧ (sized 32 0).u ≤ 32 ∧ 1 ≤ State.reset.u ∧ State.reset.u ≤ 32 := by decide +kernel

theorem witness_MagicConstantsAreExact : (8 ≤ 8 ∧ 8 ≤ 256) ∧ (8 ≤ 256 ∧ 256 ≤ 256) := by decide +kernel

theorem witness_InitTableClosedForm : (1 ≤ 256 ∧ 256 ≤ 256) ∧ 0 < 2 ∧ (1 ≤ 1 ∧ 1 < 2) := by decide +kernel

theorem witness_KeyBytesArePacked : (1 ≤ 1 ∧ 1 ≤ 32) ∧ (1 ≤ 32 ∧ 32 ≤ 32) ∧ 0 < 1 ∧ 255 ≤ 255 := by decide +kernel

theorem witness_EmptyKeyIsOneZeroWord :
    1 ≤ State.reset.u ∧ State.reset.b = 0 ∧ 1 ≤ (keyed 4 16 [7]).u ∧ 1 ≤ (keyed 4 16 [7]).b := by decide +kernel

/-- The longest key, and tables as every run has them. -/
theorem witness_KeyschedExpandsKey :
    let s := { keyed 1 32 [7] with keylen := 255 }
    1 ≤ s.u ∧ s.u ≤ 32 ∧ s.keylen.toNat ≤ 255 ∧ s.t ≤ s.sTab.length ∧ s.lTab.length = 255 := by decide +kernel

/-- Two states that agree on the key and differ past it, in P and in the block. -/
theorem witness_KeyScheduleIsDeterministic :
    let s := { keyed 4 16 [7, 8] with keylen := 1 }
    let s' := { keyed 4 16 [7, 9] with keylen := 1, p := 3 }
    s.status.cfgWB = s'.status.cfgWB ∧ s.status.cfgR = s'.status.cfgR ∧ s.keylen = s'.keylen ∧ 1 ≤ s.u
      ∧ s.keylen.toNat ≤ 255 ∧ s.t ≤ s.sTab.length ∧ s.t ≤ s'.sTab.length ∧ s.lTab.length = 255 ∧ s'.lTab.length = 255
      ∧ (∀ k < s.keylen.toNat, s.mem.read (0x100 + k) = s'.mem.read (0x100 + k)) := by decide +kernel

theorem witness_EncEncryptsBlock :
    let s := ready 4 1 [1, 2, 3, 4] [5]
    s.status.svalid = true ∧ 1 ≤ s.u ∧ s.u ≤ 32 ∧ s.mem.wf = true := by decide +kernel

theorem witness_DecDecryptsBlock :
    let s := ready 1 0 [1, 2] [5]
    s.status.svalid = true ∧ 1 ≤ s.u ∧ s.u ≤ 32 ∧ s.mem.wf = true := by decide +kernel

theorem witness_DecUndoesEncAndEncUndoesDec :
    let s := ready 6 2 [1, 2, 3, 4, 5, 6] [5, 0, 7]
    s.status.svalid = true ∧ 1 ≤ s.u ∧ s.u ≤ 32 ∧ s.mem.wf = true := by decide +kernel

/-- The last legal index, with R = 0. -/
theorem witness_RdsReadsTableEntry :
    let s := ready 4 0 [1, 0xFFFFFFFF] []
    s.params.Legal ∧ s.u ≤ s.params.wmaxBytes ∧ s.status.svalid = true ∧ 1 < s.t
      ∧ (entry s.sTab 1).toNat < 2 ^ s.w := by decide +kernel

/-- Every command is accepted in one state; a command always answers a next state. -/
theorem witness_CommandsWriteOnlyTheirState :
    ∀ i ∈ [Instr.nop, .cfg 8 32, .genpq, .keysched, .enc, .dec, .rds 1, .zeroize, .clrerr],
      acceptError i (ready 2 0 [1, 2] [3]) = none ∧ (ready 2 0 [1, 2] [3]).mem.wf = true
        ∧ ∃ t, exec i (ready 2 0 [1, 2] [3]) = .next t := by
  intro i hi
  have h : acceptError i (ready 2 0 [1, 2] [3]) = none := by
    revert i
    decide +kernel
  exact ⟨h, by decide +kernel, _, exec_accepted h⟩

/-! ### Witnesses: datapath and codec -/

theorem witness_WordOperationsMatchFormulas :
    (1 ≤ 256 ∧ 256 ≤ 256 ∧ (0 : Word).toNat < 2 ^ 256) ∧ (1 ≤ 48 ∧ 48 ≤ 256 ∧ (0xFFFFFFFFFFFF : Word).toNat < 2 ^ 48)
      ∧ 50 % 48 ≠ 0 ∧ 48 % 48 = 0 := by decide +kernel

theorem witness_DatapathLaws : 1 ≤ 24 ∧ 24 ≤ 256 ∧ (0xFFFFFF : Word).toNat < 2 ^ 24 ∧ (1 : Word).toNat < 2 ^ 24 := by decide +kernel

theorem witness_RotationMovesBits : 1 ≤ 48 ∧ 48 ≤ 256 ∧ (0x800000000001 : Word).toNat < 2 ^ 48 ∧ 47 < 48 := by decide +kernel

theorem witness_CodecRoundTrip :
    32 ≤ 32 ∧ (0xFF : Word).toNat < 2 ^ (8 * 32) ∧ (List.replicate 32 (0 : Byte)).length = 32 := by decide +kernel

theorem witness_BlockSplitsIntoHalves : (ready 8 0 [] [1, 2, 3]).u ≤ 32 := by decide +kernel

/-! ### Witnesses: the bus -/

theorem witness_BusErrorChangesNothing :
    0x102 % AccessSize.word.bytes ≠ 0 ∧ (0x01F < 0x020 ∧ AccessSize.byte ≠ AccessSize.word) := by decide +kernel

theorem witness_ReadsHaveNoSideEffects : State.reset.status.busy = false := by decide +kernel

/-- Each error code stands in some state. -/
theorem witness_StatusReadLayout :
    State.reset.status.ecode = .none
      ∧ ∀ c ∈ [ECode.illegalCmd, .badConfig, .keySize, .noSchedule, .badIndex, .busy],
          (raiseError ⟨c, 0⟩ State.reset).status.ecode = c := by decide +kernel

theorem witness_ControlRegisterReads : State.reset.params.Legal := by decide +kernel

theorem witness_ControlRegisterWrites : State.reset.status.busy = false := by decide +kernel

theorem witness_WindowBytes : State.reset.params.Legal ∧ 0 < 0x100 ∧ 0x2A0 ≤ 0x2A0 := by decide +kernel

/-- The first and the last window offset; the last stored byte of BLK and the one after it. -/
theorem witness_WindowAccessIsLittleEndian :
    State.reset.status.busy = false ∧ State.reset.mem.wf = true
      ∧ (0x100 % AccessSize.word.bytes = 0 ∧ 0x100 ≤ 0x100 ∧ 0x100 < 0x2A0)
      ∧ (0x29F % AccessSize.byte.bytes = 0 ∧ 0x100 ≤ 0x29F ∧ 0x29F < 0x2A0)
      ∧ isStored State.reset.params 0x20F = true ∧ isStored State.reset.params 0x210 = false := by decide +kernel

/-- A control register, the first reserved offset, the BLK byte after the storage, the P window, the last offset, CMD. -/
theorem witness_ReservedAndReadOnlyIgnoreWrites :
    State.reset.params.Legal ∧ 0x014 % AccessSize.word.bytes = 0
      ∧ (∀ off ∈ [0x020, 0x210, 0x240, 0xFFC], off % AccessSize.word.bytes = 0 ∧
          ∀ k < AccessSize.word.bytes, isStored State.reset.params (off + k) = false)
      ∧ (∀ off ∈ [0x020, 0x210, 0x23C, 0x2A0, 0xFFC], off % AccessSize.word.bytes = 0 ∧
          ∀ k < AccessSize.word.bytes, isStored State.reset.params (off + k) = false ∧ isResult (off + k) = false)
      ∧ 0x008 % AccessSize.word.bytes = 0 := by decide +kernel

theorem witness_BusyWritesAreIgnored :
    (pending 0x03).status.busy = true
      ∧ (∀ off ∈ [0x008, 0x010, 0x018, 0x01C, 0x00C, 0x2A0], off % AccessSize.word.bytes = 0)
      ∧ (∃ k < AccessSize.word.bytes, isStored (pending 0x03).params (0x20C + k) = true)
      ∧ (0x2A0 ∉ [0x008, 0x010, 0x018, 0x01C] ∧
          ∀ k < AccessSize.word.bytes, isStored (pending 0x03).params (0x2A0 + k) = false) := by decide +kernel

theorem witness_BusyWindowReadsAreFree :
    (pending 0x03).status.busy = true ∧ (pending 0x03).params.Legal
      ∧ (∀ off ∈ [0x000, 0x01C, 0x020, 0x20C, 0x210, 0x29C], off % AccessSize.word.bytes = 0)
      ∧ 0x29F % AccessSize.byte.bytes = 0 := by decide +kernel

/-! ### Witnesses: interrupts, steps, invariants -/

/-- Both sources pending and enabled, with data that clears or enables either or both; and both enables 0. -/
theorem witness_InterruptOutputFollowsItsSources :
    let s := { State.reset with intstat := ⟨true, true⟩, inten := ⟨true, true⟩ }
    (s.intstat.done = true ∧ s.intstat.err = true ∧ s.inten.done = true ∧ s.inten.err = true)
      ∧ ((0x3 : Word32).getLsbD 0 = true ∧ (0x3 : Word32).getLsbD 1 = true)
      ∧ ((0x1 : Word32).getLsbD 1 = false ∧ (0x2 : Word32).getLsbD 0 = false)
      ∧ (State.reset.inten.done = false ∧ State.reset.intstat.err = false)
      ∧ (State.reset.inten.err = false ∧ State.reset.intstat.done = false)
      ∧ State.reset.inten = ⟨false, false⟩
      ∧ (acceptError .nop s = none ∧ exec .nop s = .next (finishCommand s)) :=
  ⟨by decide, by decide, by decide, by decide, by decide, rfl, rfl, rfl⟩

theorem witness_StepRunsPendingCommand :
    (pending 0x04).status.busy = true ∧ decode (pending 0x04).pend = .ok .enc ∧ (pending 0x04).agenda = []
      ∧ { pending 0x04 with agenda := [.engine] }.agenda = Event.engine :: []
      ∧ decodeTableWord 32 0x00100401 = some (.cfg 4 16) := by decide +kernel

/-- The first and the last address of the aperture, and the ones beside them. -/
theorem witness_StepTakesHostAccess :
    let p : Params := { Config.reference with base := 0x1000 }
    (∀ addr ∈ [0x1000, 0x1FFF], p.base ≤ addr ∧ addr < p.base + 4096)
      ∧ (0x0FFF < p.base ∧ p.base + 4096 ≤ 0x2000)
      ∧ { State.resetWith p with agenda := [.read 0x1000 .word] }.agenda = Event.read 0x1000 .word :: []
      ∧ { State.resetWith p with agenda := [.write 0x1FFF .byte 1] }.agenda = Event.write 0x1FFF .byte 1 :: []
      ∧ ((State.resetWith p).agenda = [] ∧ (State.resetWith p).status.busy = false)
      ∧ ({ State.resetWith p with agenda := [.engine] }.agenda = Event.engine :: []
          ∧ { State.resetWith p with agenda := [.engine] }.status.busy = false) := by decide +kernel

theorem witness_ResetStepAbandonsCommand : { pending 0x03 with agenda := [.reset] }.agenda = Event.reset :: [] := by decide +kernel

theorem witness_InputsAreFrozenWhileBusy :
    let s := { pending 0x03 with agenda := [.write 0x100 .word 5] }
    s.status.busy = true ∧ ¬ Safety.EngineNext s ∧ s.agenda.head? ≠ some .reset ∧ step s = .next (after s) := by
  refine ⟨rfl, ?_, by decide, step_of_goesOn (by decide +kernel)⟩
  rintro (h | h) <;> exact absurd h (by decide)

theorem witness_TableWrittenOnlyBy :
    step (acceptCommand 0x03 (keyed 2 0 [])) = .next (after (acceptCommand 0x03 (keyed 2 0 [])))
      ∧ (after (acceptCommand 0x03 (keyed 2 0 []))).sTab ≠ (acceptCommand 0x03 (keyed 2 0 [])).sTab :=
  ⟨step_of_goesOn (by decide +kernel), by decide +kernel⟩

/-- The reset state with a command accepted that the reset state accepts meets the invariant. -/
theorem inv_pending {c : Word32} {i : Instr} (hd : decode c = .ok i) (ha : acceptError i State.reset = none) :
    Safety.Inv (pending c) where
  paramsLegal := (by decide : Config.reference.Legal)
  widthLegal := (by decide : 1 ≤ State.reset.u ∧ State.reset.u ≤ Config.reference.wmaxBytes)
  roundsLegal := (by decide : State.reset.rounds ≤ Config.reference.rmax)
  memCanonical := rfl
  memStored := by
    intro x hx
    cases hx
  sLength := List.length_replicate
  lLength := List.length_replicate
  regsFit := by
    intro x hx
    rw [show x = 0 by simpa [pending, State.reset, State.resetWith] using hx]
    exact Nat.two_pow_pos _
  sFits := by
    intro x hx
    rw [List.eq_of_mem_replicate hx]
    exact Nat.two_pow_pos _
  lFits := by
    intro x hx
    rw [List.eq_of_mem_replicate hx]
    exact Nat.two_pow_pos _
  scheduleFits := fun h => Bool.noConfusion h
  constantsHeld := fun h => Bool.noConfusion h
  noErrorNoRecord := fun _ => ⟨rfl, rfl, rfl⟩
  pendAccepted := fun _ => ⟨i, hd, (acceptError_congr i rfl rfl rfl rfl).trans ha⟩

theorem witness_AcceptedCommandCannotFail :
    ∀ c ∈ [(0x03 : Word32), 0x08],
      Safety.Inv (pending c) ∧ (pending c).status.busy = true ∧ Safety.EngineNext (pending c) := by
  intro c hc
  rcases List.mem_pair.mp hc with rfl | rfl
  · exact ⟨inv_pending (i := .keysched) (by decide) (by decide), rfl, .inl rfl⟩
  · exact ⟨inv_pending (i := .clrerr) (by decide) (by decide), rfl, .inl rfl⟩

theorem witness_ResetMeetsInvariant : Config.reference.Legal := by decide +kernel

theorem witness_StepKeepsInvariant : Safety.Inv (pending 0x08) ∧ step (pending 0x08) = .next (after (pending 0x08)) :=
  ⟨inv_pending (i := .clrerr) (by decide) (by decide), step_of_goesOn (by decide +kernel)⟩

theorem witness_InvariantStatesNeverStop : Safety.Inv (pending 0x03) :=
  inv_pending (i := .keysched) (by decide) (by decide)

/-- A reachable busy state: the host's write of GENPQ, from reset. -/
theorem witness_ReachableStatesMeetR40 :
    Safety.Reachable State.reset
      ∧ Safety.Reachable (after { State.reset with agenda := [.write 0x008 .word 0x02] }) :=
  ⟨.reset Config.reference [] (by decide +kernel),
    .next _ _ (.reset Config.reference [.write 0x008 .word 0x02] (by decide)) (step_of_goesOn (by decide +kernel))⟩

theorem witness_BusyEngineBecomesIdle : Safety.Inv (pending 0x00) ∧ (pending 0x00).status.busy = true :=
  ⟨inv_pending (i := .nop) (by decide) (by decide), rfl⟩

end Sys2Proof.Tests
end

section
/-! SUPPORT. One rule per outcome of a bus access (spec/20_memory.md R62 to R65): which accesses get ERROR and what an
ERROR does, what an aligned access above the control registers does, and its data as a sum of weighted bytes. -/

namespace Sys2Proof.Machine

theorem AccessSize.bytes_le (size : AccessSize) : size.bytes ≤ 4 := by cases size <;> decide

/-! ### Accesses that get ERROR (R63, R64) -/

theorem isBusError_iff (off : Nat) (size : AccessSize) :
    isBusError off size = true ↔ off % size.bytes ≠ 0 ∨ (off < 0x020 ∧ size ≠ .word) := by
  simp only [isBusError, Bool.or_eq_true, Bool.and_eq_true, decide_eq_true_eq]
  rfl

theorem busRead_of_busError {off : Nat} {size : AccessSize} (h : isBusError off size = true) (s : State) :
    busRead off size s = respond errorResp s := if_pos h

theorem busWrite_of_busError {off : Nat} {size : AccessSize} (h : isBusError off size = true) (v : Word32)
    (s : State) : busWrite off size v s = respond errorResp s := if_pos h

/-! ### Aligned accesses above the control registers (R65) -/

theorem isBusError_of_aligned {off : Nat} {size : AccessSize} (ha : off % size.bytes = 0) (ho : 0x020 ≤ off) :
    isBusError off size = false := by
  rw [Bool.eq_false_iff, Ne, isBusError_iff]
  rintro (h | ⟨h, -⟩)
  · exact h ha
  · exact absurd ho (Nat.not_le.mpr h)

theorem busRead_of_aligned {off : Nat} {size : AccessSize} (ha : off % size.bytes = 0) (ho : 0x020 ≤ off) (s : State) :
    busRead off size s = respond (okResp (readData s off size.bytes))
      { s with draws := if s.status.busy then s.draws + size.bytes else s.draws } := by
  rw [busRead, if_neg (by simp [isBusError_of_aligned ha ho]),
    if_neg (show ¬ off < controlEnd from Nat.not_lt.mpr ho)]

theorem busWrite_of_aligned {off : Nat} {size : AccessSize} (ha : off % size.bytes = 0) (ho : 0x020 ≤ off)
    (v : Word32) (s : State) : busWrite off size v s = respond (okResp 0) (writeWindow off size.bytes v s) := by
  rw [busWrite, if_neg (by simp [isBusError_of_aligned ha ho]),
    if_neg (show ¬ off < controlEnd from Nat.not_lt.mpr ho)]

theorem busRead_of_idle {s : State} (hb : s.status.busy = false) {off : Nat} {size : AccessSize}
    (ha : off % size.bytes = 0) (ho : 0x020 ≤ off) :
    busRead off size s = respond (okResp (readData s off size.bytes)) s := by
  rw [busRead_of_aligned ha ho, hb]
  rfl

theorem writeWindow_of_idle {s : State} (hb : s.status.busy = false) (off n : Nat) (v : Word32) :
    writeWindow off n v s = { s with mem := storeBytes s.params s.mem off (toLE n v.toNat) } := by
  simp [writeWindow, hb]

/-! ### The data of an access, byte by byte -/

/-- Byte k of bus data as a bit field. -/
theorem byteOf_toNat_word32 (v : Word32) (k : Nat) : byteOf v.toNat k = v.extractLsb' (8 * k) 8 := by
  apply BitVec.eq_of_toNat_eq
  simp [byteOf, BitVec.extractLsb'_toNat, Nat.shiftRight_eq_div_pow]

theorem getD_toLE {n k : Nat} (h : k < n) (v : Nat) : (toLE n v).getD k 0 = byteOf v k := by
  simp [toLE, h]

/-- Byte k of the data lands at off + k where that byte is writable. -/
theorem read_storeBytes_toLE_stored {p : Params} {m : Memory} (hwf : m.wf = true) (off : Nat) {n k : Nat} (hk : k < n)
    (v : Word32) (hst : isStored p (off + k) = true) :
    (storeBytes p m off (toLE n v.toNat)).read (off + k) = v.extractLsb' (8 * k) 8 := by
  rw [read_storeBytes _ hwf, length_toLE, if_pos ⟨by omega, by omega, hst⟩, Nat.add_sub_cancel_left, getD_toLE hk,
    byteOf_toNat_word32]

/-- Every byte beside the access, and every byte that is not writable, is kept. -/
theorem read_storeBytes_toLE_kept {p : Params} {m : Memory} (hwf : m.wf = true) (off n : Nat) (v : Word32) {x : Nat}
    (hx : x < off ∨ off + n ≤ x ∨ isStored p x = false) :
    (storeBytes p m off (toLE n v.toNat)).read x = m.read x := by
  rw [read_storeBytes _ hwf, length_toLE, if_neg]
  rintro ⟨hlo, hhi, hst⟩
  rcases hx with h | h | h
  · omega
  · omega
  · exact Bool.false_ne_true (h.symm.trans hst)

/-- The little-endian value of n bytes weighs byte k by 2^(8k) (spec/00_scope.md R11). -/
theorem leVal_map_range (f : Nat → Byte) (n : Nat) :
    leVal ((List.range n).map f) = ∑ k ∈ Finset.range n, (f k).toNat * 2 ^ (8 * k) := by
  induction n with
  | zero => rfl
  | succ n ih =>
    rw [List.range_succ, List.map_append, leVal_append, ih, Finset.sum_range_succ]
    simp [leVal, Nat.mul_comm]

/-- Up to four bytes fit the 32 data bits, so read data is their little-endian value. -/
theorem toNat_readData (s : State) (off : Nat) {n : Nat} (hn : n ≤ 4) :
    (readData s off n).toNat = ∑ k ∈ Finset.range n, (readByte s off k).toNat * 2 ^ (8 * k) := by
  rw [← leVal_map_range, readData, BitVec.toNat_ofNat]
  have hlt := leVal_lt ((List.range n).map (readByte s off))
  rw [List.length_map, List.length_range] at hlt
  exact Nat.mod_eq_of_lt (hlt.trans_le (Nat.pow_le_pow_right (by decide) (by omega)))

theorem readByte_of_idle {s : State} (hb : s.status.busy = false) (off k : Nat) :
    readByte s off k = windowByte s (off + k) := by
  simp [readByte, hb]

end Sys2Proof.Machine
end

section
/-! PROOFS. The bus (spec/20_memory.md): accesses that get ERROR, and window accesses while idle. -/

namespace Sys2Proof.Proofs

open Sys2Proof.Machine

/-- Settles O32: both halves of the hypothesis are what makes an access a bus error, and a bus error only responds. -/
theorem busErrorChangesNothing : Obligations.BusErrorChangesNothing := by
  intro s off size v h
  have herr : isBusError off size = true := (isBusError_iff off size).mpr h
  exact ⟨busRead_of_busError herr s, busWrite_of_busError herr v s⟩

/-- Settles O38: the write is one bus store, whose bytes `read_storeBytes` tells apart; the read is the little-endian
value of at most four window bytes, which fit the 32 data bits. -/
theorem windowAccessIsLittleEndian : Obligations.WindowAccessIsLittleEndian := by
  intro s a size v hb hwf ha hlo _
  have ho : 0x020 ≤ a := by omega
  refine ⟨⟨_, rfl, ?_⟩, readData s a size.bytes, busRead_of_idle hb ha ho, ?_⟩
  · rw [busWrite_of_aligned ha ho, writeWindow_of_idle hb]
    exact ⟨fun k hk hst => read_storeBytes_toLE_stored hwf a hk v hst,
      fun x hx => read_storeBytes_toLE_kept hwf a size.bytes v hx, rfl⟩
  · rw [toNat_readData s a size.bytes_le]
    simp only [readByte_of_idle hb]

end Sys2Proof.Proofs
end

section
/-! SUPPORT. The command formats (spec/30_encoding.md R91 to R97) against the opcode map, and what an idle engine answers
to a write to CMD. -/

namespace Sys2Proof

/-! ### The formats and the rows of the opcode map -/

/-- The lowest must-be-zero bit in the format of an opcode: 24 in format C, 17 in format I, 8 in format N
(spec/30_encoding.md R91 to R93). -/
def mbzLow : Nat → Nat
  | 0x01 => 24
  | 0x06 => 17
  | _ => 8

/-- The mask of every row keeps, of the bits below its must-be-zero ones, the opcode field alone. -/
theorem opcodeTable_mask {r : OpcodeRow} (hr : r ∈ opcodeTable) :
    r.pattern.toNat < 9 ∧ r.mask.toNat % 2 ^ mbzLow r.pattern.toNat = 2 ^ 8 - 1 := by
  revert r
  decide

/-- A word that decodes has an opcode of the map, and zeros from the first must-be-zero bit of its format up. -/
theorem decode_ok_fits_format {c : Word32} {i : Instr} (h : decode c = .ok i) :
    c.toNat % 256 < 9 ∧ c.toNat < 2 ^ mbzLow (c.toNat % 256) := by
  rcases decode_cases h with ⟨-, hc⟩ | ⟨wb, rr, hwb, hrr, -, hc⟩ | ⟨-, hc⟩ | ⟨-, hc⟩ | ⟨-, hc⟩ | ⟨-, hc⟩
    | ⟨idx, hidx, -, hc⟩ | ⟨-, hc⟩ | ⟨-, hc⟩
  case inr.inl =>
    rw [show c.toNat % 256 = 0x01 by omega, mbzLow]
    omega
  case inr.inr.inr.inr.inr.inr.inl =>
    rw [show c.toNat % 256 = 0x06 by omega, mbzLow]
    omega
  all_goals
    rw [hc]
    decide

/-- A mask that keeps the opcode field alone of the bits below `lo` keeps the opcode of a word that has no other bits. -/
theorem toNat_and_mask {c m : Word32} {lo : Nat} (hc : c.toNat < 2 ^ lo)
    (hm : m.toNat % 2 ^ lo = 2 ^ 8 - 1) : (c &&& m).toNat = c.toNat % 256 := by
  have hlt : c.toNat &&& m.toNat < 2 ^ lo := Nat.and_le_left.trans_lt hc
  calc (c &&& m).toNat = (c.toNat &&& m.toNat) % 2 ^ lo := by rw [BitVec.toNat_and, Nat.mod_eq_of_lt hlt]
    _ = c.toNat &&& (2 ^ 8 - 1) := by rw [Nat.and_mod_two_pow, Nat.mod_eq_of_lt hc, hm]
    _ = c.toNat % 256 := Nat.and_two_pow_sub_one_eq_mod _ 8

/-- A word that decodes matches the row of the map that has its opcode. -/
theorem matchesWord_of_decode {c : Word32} {i : Instr} (h : decode c = .ok i) {r : OpcodeRow} (hr : r ∈ opcodeTable)
    (hop : cmdField c 7 0 = cmdField r.pattern 7 0) : r.matchesWord c = true := by
  obtain ⟨-, hfit⟩ := decode_ok_fits_format h
  obtain ⟨hpat, hmask⟩ := opcodeTable_mask hr
  have hop' : c.toNat % 256 = r.pattern.toNat := by
    rw [← cmdField_op, hop, cmdField_op]
    omega
  rw [hop'] at hfit
  exact decide_eq_true (BitVec.eq_of_toNat_eq ((toNat_and_mask hfit hmask).trans hop'))

/-- The illegal words of spec/30_encoding.md R97 do not decode: a reserved opcode, or a row of the map with the word's
opcode that the word does not match. -/
theorem decode_rejects_illegal {c : Word32}
    (h : 9 ≤ cmdField c 7 0 ∨
      ∃ r ∈ opcodeTable, cmdField c 7 0 = cmdField r.pattern 7 0 ∧ r.matchesWord c = false) :
    ∃ e, decode c = .error e := by
  cases hd : decode c with
  | error e => exact ⟨e, rfl⟩
  | ok i =>
    rcases h with hop | ⟨r, hr, hop, hno⟩
    · rw [cmdField_op] at hop
      exact absurd (decode_ok_fits_format hd).1 (Nat.not_lt.mpr hop)
    · exact absurd (matchesWord_of_decode hd hr hop) (by simp [hno])

/-! ### Decoding the encodings of CFG and RDS -/

theorem toNat_encode_cfg {wb rr : Nat} (hwb : wb < 256) (hrr : rr < 256) :
    (encode (.cfg wb rr)).toNat = rr * 65536 + wb * 256 + 0x01 := by
  simp only [encode, BitVec.toNat_ofNat]
  omega

theorem toNat_encode_rds {idx : Nat} (hidx : idx < 512) : (encode (.rds idx)).toNat = idx * 256 + 0x06 := by
  simp only [encode, BitVec.toNat_ofNat]
  omega

theorem decode_of_op_cfg {c : Word32} (hop : cmdField c 7 0 = 0x01) :
    decode c = ifMbzClear c 24 (.cfg (cmdField c 15 8) (cmdField c 23 16)) := by
  simp only [decode, hop]

theorem decode_of_op_rds {c : Word32} (hop : cmdField c 7 0 = 0x06) :
    decode c = ifMbzClear c 17 (.rds (cmdField c 16 8)) := by
  simp only [decode, hop]

theorem decode_encode_cfg {wb rr : Nat} (hwb : wb < 256) (hrr : rr < 256) :
    decode (encode (.cfg wb rr)) = .ok (.cfg wb rr) := by
  have hn := toNat_encode_cfg hwb hrr
  have hmbz : cmdField (encode (.cfg wb rr)) 31 24 = 0 := by rw [cmdField_top _ (by omega)]; omega
  have hwb' : cmdField (encode (.cfg wb rr)) 15 8 = wb := by rw [cmdField_wb]; omega
  have hrr' : cmdField (encode (.cfg wb rr)) 23 16 = rr := by rw [cmdField_rr]; omega
  rw [decode_of_op_cfg (by rw [cmdField_op]; omega), ifMbzClear, if_pos hmbz, hwb', hrr']

theorem decode_encode_rds {idx : Nat} (hidx : idx < 512) : decode (encode (.rds idx)) = .ok (.rds idx) := by
  have hn := toNat_encode_rds hidx
  have hmbz : cmdField (encode (.rds idx)) 31 17 = 0 := by rw [cmdField_top _ (by omega)]; omega
  have hidx' : cmdField (encode (.rds idx)) 16 8 = idx := by rw [cmdField_idx]; omega
  rw [decode_of_op_rds (by rw [cmdField_op]; omega), ifMbzClear, if_pos hmbz, hidx']

end Sys2Proof

namespace Sys2Proof.Machine

/-! ### A write to CMD while the engine is idle (spec/44_control.md R201, checks 2 to 6) -/

/-- A 4-byte write to CMD presents its data and gets OK (spec/20_memory.md R62). -/
theorem busWrite_cmd (c : Word32) (s : State) :
    busWrite 0x008 .word c s = respond ⟨true, 0⟩ (presentCommand c s) := rfl

theorem busWrite_cmd_of_undecodable {c : Word32} {s : State} {r : DecodeReject} (hb : s.status.busy = false)
    (hd : decode c = .error r) :
    busWrite 0x008 .word c s = respond ⟨true, 0⟩ (raiseError ⟨.illegalCmd, c⟩ s) := by
  rw [busWrite_cmd]
  simp [presentCommand, hb, hd]

theorem busWrite_cmd_of_failedCheck {c : Word32} {i : Instr} {e : EngineError} {s : State}
    (hb : s.status.busy = false) (hd : decode c = .ok i) (he : acceptError i s = some e) :
    busWrite 0x008 .word c s = respond ⟨true, 0⟩ (raiseError e s) := by
  rw [busWrite_cmd]
  simp [presentCommand, hb, hd, he]

theorem acceptError_cfg_of_outOfRange {wb rr : Nat} {s : State}
    (h : wb = 0 ∨ s.params.wmaxBytes < wb ∨ s.params.rmax < rr) :
    acceptError (.cfg wb rr) s = some ⟨.badConfig, encode (.cfg wb rr)⟩ := if_pos h

theorem acceptError_rds_of_outOfRange {idx : Nat} {s : State} (hv : s.status.svalid = true) (h : s.t ≤ idx) :
    acceptError (.rds idx) s = some ⟨.badIndex, BitVec.ofNat 32 idx⟩ := by
  simp [acceptError, checkRds, checkSchedule, hv, h]

end Sys2Proof.Machine
end

section
/-! PROOFS. Command words that an idle engine rejects (spec/30_encoding.md R97). -/

namespace Sys2Proof.Proofs

open Sys2Proof.Machine

/-- Settles O5: a word that R97 calls illegal does not decode, for one that decodes fits the format, hence the mask, of its
opcode. CFG and RDS with an operand out of range decode, and fail check 3 or check 6. -/
theorem illegalWordsAreRejected : Obligations.IllegalWordsAreRejected := by
  intro s hb
  refine ⟨fun c hc => ?_, fun wb rr hwb hrr hout => ?_, fun idx hidx hv hout => ?_⟩
  · obtain ⟨r, hd⟩ := decode_rejects_illegal hc
    exact busWrite_cmd_of_undecodable hb hd
  · exact busWrite_cmd_of_failedCheck hb (decode_encode_cfg hwb hrr) (acceptError_cfg_of_outOfRange hout)
  · exact busWrite_cmd_of_failedCheck hb (decode_encode_rds hidx) (acceptError_rds_of_outOfRange hv hout)

end Sys2Proof.Proofs
end

section
/-! SUPPORT. The difference and the rotations as the formulas of the spec (spec/40_datapath.md R123 to R125). -/

namespace Sys2Proof.Machine

/-- R123's second form: a w-bit y needs no reduction before it is taken from `2^w`. -/
theorem toNat_subW_of_lt {w : Nat} (hw : w ≤ 256) (x : Word) {y : Word} (hy : y.toNat < 2 ^ w) :
    (subW w x y).toNat = (x.toNat + 2 ^ w - y.toNat) % 2 ^ w := by
  rw [toNat_subW hw, Nat.mod_eq_of_lt hy, Nat.add_sub_assoc hy.le]

/-- R123's first form: over the integers the added `2^w` vanishes modulo `2^w`. -/
theorem intCast_toNat_subW {w : Nat} (hw : w ≤ 256) (x : Word) {y : Word} (hy : y.toNat < 2 ^ w) :
    ((subW w x y).toNat : Int) = ((x.toNat : Int) - (y.toNat : Int)) % (2 : Int) ^ w := by
  have hle : y.toNat ≤ x.toNat + 2 ^ w := hy.le.trans (Nat.le_add_left _ _)
  rw [toNat_subW_of_lt hw x hy]
  push_cast [hle]
  rw [add_sub_right_comm, Int.add_emod_right]

theorem rotlW_of_mod_eq_zero {w n : Nat} (hn : n % w = 0) (x : Word) : rotlW w x n = x := if_pos hn

theorem rotrW_of_mod_eq_zero {w n : Nat} (hn : n % w = 0) (x : Word) : rotrW w x n = x := if_pos hn

/-- R124 for every amount: the identity at a multiple of w, two shifts joined otherwise. -/
theorem toNat_rotlW_eq_ite {w : Nat} (hw : w ≤ 256) (x : Word) (n : Nat) :
    (rotlW w x n).toNat =
      (if n % w = 0 then x.toNat else ((x.toNat <<< (n % w)) ||| (x.toNat >>> (w - n % w))) % 2 ^ w) := by
  split
  case isTrue hn => rw [rotlW_of_mod_eq_zero hn]
  case isFalse hn => exact toNat_rotlW hw hn

/-- R125 for every amount: the identity at a multiple of w, two shifts joined otherwise. -/
theorem toNat_rotrW_eq_ite {w : Nat} (hw : w ≤ 256) (x : Word) (n : Nat) :
    (rotrW w x n).toNat =
      (if n % w = 0 then x.toNat else ((x.toNat >>> (n % w)) ||| (x.toNat <<< (w - n % w))) % 2 ^ w) := by
  split
  case isTrue hn => rw [rotrW_of_mod_eq_zero hn]
  case isFalse hn => exact toNat_rotrW hw hn

end Sys2Proof.Machine
end

section
/-! PROOFS. The word operations as numbers (spec/40_datapath.md R122 to R125, R127). -/

namespace Sys2Proof.Proofs

open Sys2Proof.Machine

/-- Settles O27: each operation's value lemma, at widths whose words fit a 256-bit cell. -/
theorem wordOperationsMatchFormulas : Obligations.WordOperationsMatchFormulas := by
  intro w x y n _ hw hx hy
  exact ⟨toNat_addW hw x y, intCast_toNat_subW hw x hy, toNat_subW_of_lt hw x hy, toNat_rotlW_eq_ite hw x n,
    toNat_rotrW_eq_ite hw x n, toNat_xorW x y, xorW_lt hx hy⟩

end Sys2Proof.Proofs
end

section
/-! SUPPORT. The magic constant generator against the real numbers (spec/41_magic.md R140, R142): each 256-bit table is a
floor over the reals, and a word of width w is the odd-forced top of its table. -/

namespace Sys2Proof.Machine

/-! ### The word taken from a table (R142) -/

section
variable {rom w : Nat} (hrom : rom < 2 ^ 256) (hw1 : 1 ≤ w) (hw : w ≤ 256)
include hrom hw1 hw

/-- The top w bits of a 256-bit table, made odd, are a w-bit number. -/
theorem tableTop_or_one_lt : rom / 2 ^ (256 - w) ||| 1 < 2 ^ w := by
  have htop : rom / 2 ^ (256 - w) < 2 ^ w := by
    rwa [Nat.div_lt_iff_lt_mul (Nat.two_pow_pos _), ← pow_add, Nat.add_sub_cancel' hw]
  exact Nat.or_lt_two_pow htop (Nat.one_lt_two_pow (Nat.one_le_iff_ne_zero.mp hw1))

theorem toNat_magicWord : (magicWord rom w).toNat = rom / 2 ^ (256 - w) ||| 1 :=
  toNat_wordOfNat hw (tableTop_or_one_lt hrom hw1 hw)

theorem magicWord_lt : (magicWord rom w).toNat < 2 ^ w :=
  (toNat_magicWord hrom hw1 hw).trans_lt (tableTop_or_one_lt hrom hw1 hw)

theorem magicWord_odd : (magicWord rom w).toNat % 2 = 1 := by simp [toNat_magicWord hrom hw1 hw]

/-- A floor at 256 binary digits, cut to w of them, is the floor at w digits. -/
theorem magicWord_eq_floor {x : ℝ} (hx : ⌊x * 2 ^ 256⌋₊ = rom) : (magicWord rom w).toNat = ⌊x * 2 ^ w⌋₊ ||| 1 := by
  have hscale : x * 2 ^ w = x * 2 ^ 256 / ((2 ^ (256 - w) : Nat) : ℝ) := by
    rw [eq_div_iff (by positivity), Nat.cast_pow, Nat.cast_two, mul_assoc, ← pow_add, Nat.add_sub_cancel' hw]
  rw [toNat_magicWord hrom hw1 hw, hscale, Nat.floor_div_natCast, hx]

end

/-! ### The tables as floors over the reals (R140) -/

theorem erom_lt : erom < 2 ^ 256 := by decide

theorem phiRom_lt : phiRom < 2 ^ 256 := by decide

/-- The first 58 terms of the series of e fall short of it by less than `2^-256`, and already reach the table. -/
theorem erom_div_le_exp_one : (erom : ℝ) / 2 ^ 256 + 2 ≤ Real.exp 1 := by
  refine le_trans ?_ (Real.sum_le_exp_of_nonneg zero_le_one 58)
  norm_num [erom, Finset.sum_range_succ, Nat.factorial]

/-- The first 58 terms and the bound on the rest stay below the table's next value. -/
theorem exp_one_lt_erom_succ_div : Real.exp 1 < (erom + 1 : ℝ) / 2 ^ 256 + 2 := by
  refine (Real.exp_bound' zero_le_one le_rfl (n := 58) (by decide)).trans_lt ?_
  norm_num [erom, Finset.sum_range_succ, Nat.factorial]

theorem floor_exp_one_sub_two : ⌊(Real.exp 1 - 2) * 2 ^ 256⌋₊ = erom := by
  rw [Nat.floor_eq_iff' (by decide), ← div_le_iff₀ (by positivity), ← lt_div_iff₀ (by positivity)]
  exact ⟨le_sub_iff_add_le.mpr erom_div_le_exp_one, sub_lt_iff_lt_add.mpr exp_one_lt_erom_succ_div⟩

/-- The golden ratio is `(1 + √5) / 2`, so bounds on its digits are comparisons of squares with 5. -/
theorem floor_goldenRatio_sub_one : ⌊(Real.goldenRatio - 1) * 2 ^ 256⌋₊ = phiRom := by
  have hlo : (2 * phiRom + 2 ^ 256 : ℝ) / 2 ^ 256 ≤ √5 := Real.le_sqrt_of_sq_le (by norm_num [phiRom])
  have hhi : √5 < (2 * (phiRom + 1) + 2 ^ 256 : ℝ) / 2 ^ 256 :=
    (Real.sqrt_lt' (by positivity)).mpr (by norm_num [phiRom])
  rw [div_le_iff₀ (by positivity)] at hlo
  rw [lt_div_iff₀ (by positivity)] at hhi
  rw [Nat.floor_eq_iff' (by decide), Real.goldenRatio]
  constructor <;> linarith

end Sys2Proof.Machine
end

section
/-! PROOFS. The magic constants as numbers (spec/41_magic.md R140). -/

namespace Sys2Proof.Proofs

open Sys2Proof.Machine

/-- Settles O14: the tables are the floors at 256 digits, and each word is the odd-forced top of its table. -/
theorem magicConstantsAreExact : Obligations.MagicConstantsAreExact := by
  intro w hw8 hw
  have hw1 : 1 ≤ w := by omega
  exact ⟨magicWord_eq_floor erom_lt hw1 hw floor_exp_one_sub_two,
    magicWord_eq_floor phiRom_lt hw1 hw floor_goldenRatio_sub_one,
    magicWord_odd erom_lt hw1 hw, magicWord_odd phiRom_lt hw1 hw,
    magicWord_lt erom_lt hw1 hw, magicWord_lt phiRom_lt hw1 hw⟩

end Sys2Proof.Proofs
end

section
/-! SUPPORT. The key-length check at acceptance (spec/42_keysched.md R161) and the table of phase 1 entry by entry
(R162). -/

namespace Sys2Proof.Machine

/-! ### Check 4: the key length (R161) -/

theorem busWrite_cmd_of_accepted {c : Word32} {i : Instr} {s : State} (hb : s.status.busy = false)
    (hd : decode c = .ok i) (ha : acceptError i s = none) :
    busWrite 0x008 .word c s = respond ⟨true, 0⟩ (acceptCommand c s) := by
  rw [busWrite_cmd]
  simp [presentCommand, hb, hd, ha]

theorem decode_keysched : decode 0x00000003 = .ok .keysched := by decide

theorem acceptError_keysched_of_long {s : State} (h : 255 < s.keylen.toNat) :
    acceptError .keysched s = some ⟨.keySize, s.keylen.setWidth 32⟩ :=
  (if_pos h).trans (by rw [State.b, BitVec.ofNat_toNat])

theorem acceptError_keysched_of_fits {s : State} (h : s.keylen.toNat ≤ 255) : acceptError .keysched s = none :=
  if_neg (Nat.not_lt.mpr h)

/-! ### Phase 1 (R162) -/

/-- Entry k is k additions of Q_w to P_w. -/
theorem entry_initTable {w t k : Nat} (hk : k < t) :
    entry (initTable w t) k = (fun x => addW w x (qConst w))^[k] (pConst w) := by
  rw [entry, List.getD_eq_getElem?_getD, initTable, List.getElem?_iterate _ _ _ _ hk, Option.getD_some]

theorem entry_initTable_zero {w t : Nat} (ht : 0 < t) : entry (initTable w t) 0 = pConst w := entry_initTable ht

theorem entry_initTable_succ {w t k : Nat} (hk : k + 1 < t) :
    entry (initTable w t) (k + 1) = addW w (entry (initTable w t) k) (qConst w) := by
  rw [entry_initTable hk, entry_initTable (Nat.lt_of_succ_lt hk), Function.iterate_succ_apply']

/-- R162's recurrence as a number. -/
theorem toNat_entry_initTable_succ {w t k : Nat} (hw : w ≤ 256) (hk : k + 1 < t) :
    (entry (initTable w t) (k + 1)).toNat = ((entry (initTable w t) k).toNat + (qConst w).toNat) % 2 ^ w := by
  rw [entry_initTable_succ hk, toNat_addW hw]

/-- R162's closed form: the reduction at each entry may be left to the last, and P_w needs none. -/
theorem toNat_entry_initTable {w t k : Nat} (hw1 : 1 ≤ w) (hw : w ≤ 256) (hk : k < t) :
    (entry (initTable w t) k).toNat = ((pConst w).toNat + k * (qConst w).toNat) % 2 ^ w := by
  induction k with
  | zero =>
    have hp : (pConst w).toNat < 2 ^ w := magicWord_lt erom_lt hw1 hw
    rw [entry_initTable_zero hk, Nat.zero_mul, Nat.add_zero, Nat.mod_eq_of_lt hp]
  | succ k ih =>
    rw [toNat_entry_initTable_succ hw hk, ih (Nat.lt_of_succ_lt hk), Nat.mod_add_mod, Nat.succ_mul, Nat.add_assoc]

end Sys2Proof.Machine
end

section
/-! PROOFS. The key schedule (spec/42_keysched.md): the key-length check and phase 1. -/

namespace Sys2Proof.Proofs

open Sys2Proof.Machine

/-- Settles O7: KEYSCHED's one check is the key length. Above 255 it fails and the write only records the error and
responds, which is the whole frame; at 255 it passes and the write accepts the word. -/
theorem keySizeIsChecked : Obligations.KeySizeIsChecked := by
  intro s hb
  refine ⟨fun hlong => ?_, fun hfits => ?_⟩
  · have ht := busWrite_cmd_of_failedCheck hb decode_keysched (acceptError_keysched_of_long hlong)
    simp only [ht, true_and]
    refine ⟨fun herr => ?_, ?_⟩
    · rw [raiseError_first herr]
      exact ⟨rfl, rfl, BitVec.toNat_setWidth_of_le (by decide)⟩
    · simp [hb]
  · rw [busWrite_cmd_of_accepted hb decode_keysched (acceptError_keysched_of_fits hfits.le)]
    exact ⟨rfl, rfl⟩

/-- Settles O15: the start, the recurrence and the closed form of phase 1, entry by entry. -/
theorem initTableClosedForm : Obligations.InitTableClosedForm := by
  intro w t k hw1 hw hk
  refine ⟨entry_initTable_zero (Nat.zero_lt_of_lt hk), fun hk1 => ?_, toNat_entry_initTable hw1 hw hk⟩
  obtain ⟨j, rfl⟩ := Nat.exists_eq_succ_of_ne_zero (Nat.one_le_iff_ne_zero.mp hk1)
  exact toNat_entry_initTable_succ hw hk

end Sys2Proof.Proofs
end

section
/-! SUPPORT. What a step does to the error record and to ERR_IP (spec/60_exceptions.md R237): who keeps both, and the two
steps that clear one of them, each as an equation. -/

namespace Sys2Proof.Machine

/-- From s to t a standing record keeps its first error and its ERROVF, and a pending ERR_IP stays pending. -/
def KeepsErrors (s t : State) : Prop :=
  (s.status.err = true →
    t.status.err = true ∧ t.status.ecode = s.status.ecode ∧ t.errinfo = s.errinfo ∧
      (s.status.errovf = true → t.status.errovf = true)) ∧
  (s.intstat.err = true → t.intstat.err = true)

theorem keepsErrors_refl (s : State) : KeepsErrors s s := ⟨fun h => ⟨h, rfl, rfl, id⟩, id⟩

/-! ### The operations that keep both -/

theorem keepsErrors_raiseError (e : EngineError) (s : State) : KeepsErrors s (raiseError e s) := by
  refine ⟨fun h => ?_, fun _ => by rw [raiseError_intstat]⟩
  rw [raiseError_later h]
  exact ⟨h, rfl, rfl, fun _ => rfl⟩

/-- CLRERR is the one command whose effect touches the record. -/
theorem keepsErrors_effect {i : Instr} (hi : i ≠ .clrerr) (s : State) : KeepsErrors s (effect i s) := by
  cases i
  case clrerr => exact absurd rfl hi
  all_goals exact keepsErrors_refl s

theorem keepsErrors_exec {i : Instr} (hi : i ≠ .clrerr) {s t : State} (h : exec i s = .next t) : KeepsErrors s t := by
  rcases exec_cases i s with ⟨-, hx⟩ | ⟨e, -, hx⟩ <;> cases hx.symm.trans h
  · exact keepsErrors_effect hi s
  · exact keepsErrors_raiseError e { s with status := { s.status with busy := false } }

theorem engineStep_keepsErrors_or_clrerr {s t : State} (h : engineStep s = .next t) :
    KeepsErrors s t ∨ (s.status.busy = true ∧ decode s.pend = .ok .clrerr) := by
  rcases engineStep_cases s with ⟨-, hx⟩ | ⟨hb, i, hd, hx⟩ | ⟨-, -, hx⟩
  · cases hx.symm.trans h
    exact .inl (keepsErrors_refl s)
  · by_cases hi : i = .clrerr
    · exact .inr ⟨hb, hi ▸ hd⟩
    · exact .inl (keepsErrors_exec hi (hx.symm.trans h))
  · cases hx.symm.trans h

theorem keepsErrors_busRead (off : Nat) (size : AccessSize) (s : State) : KeepsErrors s (busRead off size s) := by
  obtain ⟨r, d, h⟩ := busRead_eq off size s
  rw [h]
  exact keepsErrors_refl s

theorem busWrite_keepsErrors_or_intstat (off : Nat) (size : AccessSize) (v : Word32) (s : State) :
    KeepsErrors s (busWrite off size v s) ∨ (off = 0x01C ∧ size = .word) := by
  obtain ⟨r, s', h, hs'⟩ := busWrite_cases off size v s
  rw [h]
  rcases hs' with rfl | ⟨e, rfl⟩ | ⟨-, -, -, i, -, -, rfl⟩ | ⟨-, -, -, rfl⟩ | ⟨-, -, rfl⟩ | ⟨ho, hsz, -⟩ | ⟨-, -, rfl⟩
  case inr.inl => exact .inl (keepsErrors_raiseError e s)
  case inr.inr.inr.inr.inr.inl => exact .inr ⟨ho, hsz⟩
  all_goals exact .inl (keepsErrors_refl _)

/-! ### Steps -/

/-- A step that fails to keep one of them is a reset, the engine's turn with CLRERR pending, or a write to INTSTAT. -/
theorem step_keepsErrors_or {s t : State} (h : step s = .next t) :
    KeepsErrors s t ∨ s.agenda.head? = some .reset ∨
      (Safety.EngineNext s ∧ s.status.busy = true ∧ decode s.pend = .ok .clrerr) ∨
      ∃ v, s.agenda.head? = some (.write (s.params.base + 0x01C) .word v) := by
  rcases step_cases s with ⟨hx, hturn⟩ | ⟨addr, size, rest, -, hx⟩ | ⟨addr, size, v, rest, ha, hx⟩ | ⟨rest, ha, -⟩
  · exact (engineStep_keepsErrors_or_clrerr (hx.symm.trans h)).imp id fun hc => .inr (.inl ⟨hturn, hc⟩)
  · cases hx.symm.trans h
    rcases hostAccess_cases addr (fun off => busRead off size) (popAgenda s) with ⟨off, -, -, -, hr⟩ | hr <;> rw [hr]
    · exact .inl (keepsErrors_busRead off size (popAgenda s))
    · exact .inl (keepsErrors_refl s)
  · cases hx.symm.trans h
    rcases hostAccess_cases addr (fun off => busWrite off size v) (popAgenda s) with ⟨off, -, -, rfl, hw⟩ | hw <;> rw [hw]
    · refine (busWrite_keepsErrors_or_intstat off size v (popAgenda s)).imp id ?_
      rintro ⟨rfl, rfl⟩
      exact .inr (.inr ⟨v, by rw [ha]; rfl⟩)
    · exact .inl (keepsErrors_refl s)
  · exact .inr (.inl (by rw [ha]; rfl))

/-- The engine's turn with CLRERR pending clears the record and completes (spec/44_control.md R210). -/
theorem step_of_clrerr {s : State} (hturn : Safety.EngineNext s) (hb : s.status.busy = true)
    (hd : decode s.pend = .ok .clrerr) : step s = .next (finishCommand (clearErrorRecord (popAgenda s))) := by
  have hstep : step s = engineStep (popAgenda s) := by
    rcases hturn with hnil | hhead
    · rw [step_of_nil hnil, popAgenda_of_nil hnil]
    · rw [step_of_cons (List.eq_cons_of_mem_head? hhead)]
      rfl
  rw [hstep]
  simp only [engineStep, fetchCommand, popAgenda, hb, hd, if_true]
  rfl

/-- Bit 1 of the data is the one that clears ERR_IP. -/
theorem clearInts_intBitsOf_err (b : IntBits) (v : Word32) :
    (clearInts b (intBitsOf v)).err = (b.err && !v.getLsbD 1) := rfl

/-- A word written to INTSTAT clears bits of INTSTAT and responds (spec/10_state.md R30). -/
theorem step_of_write_intstat {s : State} {v : Word32}
    (h : s.agenda.head? = some (.write (s.params.base + 0x01C) .word v)) :
    step s = .next (respond ⟨true, 0⟩ { popAgenda s with intstat := clearInts s.intstat (intBitsOf v) }) := by
  have hoff : apertureOffset s.params (s.params.base + 0x01C) = some 0x01C := by simp [apertureOffset]
  rw [step_of_cons (List.eq_cons_of_mem_head? h)]
  simp only [eventStep, hostAccess, hoff]
  rfl

end Sys2Proof.Machine
end

section
/-! PROOFS. The error record (spec/60_exceptions.md R236, R237). -/

namespace Sys2Proof.Proofs

open Sys2Proof.Machine

/-- Settles O9: a step that does not keep the record and ERR_IP is a reset, CLRERR, or a write to INTSTAT; of the last two,
each has its equation, which says that it keeps what the other clears. -/
theorem errorRecordClearedOnlyBy : Obligations.ErrorRecordClearedOnlyBy := by
  intro s t h
  have hclrerr : Safety.EngineNext s → s.status.busy = true → decode s.pend = .ok .clrerr →
      t.intstat.err = s.intstat.err := fun hturn hb hd => by
    cases (step_of_clrerr hturn hb hd).symm.trans h
    rfl
  have hwrite : ∀ v, s.agenda.head? = some (.write (s.params.base + 0x01C) .word v) →
      t.status = s.status ∧ t.errinfo = s.errinfo ∧ t.intstat = clearInts s.intstat (intBitsOf v) := fun v hv => by
    cases (step_of_write_intstat hv).symm.trans h
    exact ⟨rfl, rfl, rfl⟩
  refine ⟨fun herr => ?_, fun hip => ?_, hclrerr, fun v hv => ?_⟩
  · rcases step_keepsErrors_or h with ⟨hrec, -⟩ | hreset | hclr | ⟨v, hv⟩
    · exact .inl (hrec herr)
    · exact .inr (.inl hreset)
    · exact .inr (.inr hclr)
    · obtain ⟨hst, hinfo, -⟩ := hwrite v hv
      rw [hst, hinfo]
      exact .inl ⟨herr, rfl, rfl, id⟩
  · rcases step_keepsErrors_or h with ⟨-, hpend⟩ | hreset | ⟨hturn, hb, hd⟩ | ⟨v, hv⟩
    · exact .inl (hpend hip)
    · exact .inr (.inl hreset)
    · exact .inl ((hclrerr hturn hb hd).trans hip)
    · obtain ⟨-, -, hint⟩ := hwrite v hv
      cases hbit : v.getLsbD 1
      · exact .inl (by rw [hint, clearInts_intBitsOf_err, hip, hbit]; rfl)
      · exact .inr (.inr ⟨v, hv, hbit⟩)
  · obtain ⟨hst, hinfo, -⟩ := hwrite v hv
    exact ⟨hst, hinfo⟩

/-- Settles O8: one equation for the first error and one for a later one, and the checks read none of what they write. -/
theorem firstErrorIsLatched : Obligations.FirstErrorIsLatched :=
  fun e s => ⟨fun h => raiseError_first h e, fun h => raiseError_later h e, fun i => acceptError_raiseError i e s⟩

end Sys2Proof.Proofs
end

section
/-! SUPPORT. The reset step (spec/70_reset_and_hazards.md R270, R271). -/

namespace Sys2Proof.Machine

/-- Reset leaves the reset state of the same part, whatever command is pending; what the outside does next and the draw
counter are not reset (assumption 17). -/
theorem step_of_reset {s : State} {rest : List Event} (h : s.agenda = .reset :: rest) :
    step s = .next { State.resetWith s.params with agenda := rest, draws := s.draws } := step_of_cons h

/-- The reset contents of KEY and BLK. -/
theorem read_mem_resetWith (p : Params) (a : Nat) : (State.resetWith p).mem.read a = 0 := rfl

/-- With both interrupts disabled the output is low (spec/10_state.md R31). -/
theorem irq_of_disabled {s : State} (h : s.inten = ⟨false, false⟩) : irq s = false := by simp [irq, h]

end Sys2Proof.Machine
end

section
/-! PROOFS. Reset (spec/70_reset_and_hazards.md R270, R271). -/

namespace Sys2Proof.Proofs

open Sys2Proof.Machine

/-- Settles O45: the step's equation gives the state after it, the reset state but for the agenda and the draw counter, and
each field of that state is its reset value by definition. -/
theorem resetStepAbandonsCommand : Obligations.ResetStepAbandonsCommand := by
  intro s rest h
  refine ⟨_, step_of_reset h, rfl, rfl, ?status, ?keylen, ?errinfo, ?inten, ?intstat, irq_of_disabled rfl,
    read_mem_resetWith s.params, ?p, ?q, ?sout, ?id, ?params⟩
  all_goals rfl

end Sys2Proof.Proofs
end

section
/-! SUPPORT. The two round trips of the command encoding (spec/30_encoding.md R99) and the words that match a row of the
opcode map (R95, R96). -/

namespace Sys2Proof

open Laws.EncodesOpcode (opcode)

/-! ### Round trips -/

theorem decode_encode {i : Instr} (h : i.wellFormed = true) : decode (encode i) = .ok i := by
  cases i with
  | cfg wb rr =>
    simp only [Instr.wellFormed, Bool.and_eq_true, decide_eq_true_eq] at h
    exact decode_encode_cfg h.1 h.2
  | rds idx => exact decode_encode_rds (by simpa [Instr.wellFormed] using h)
  | nop | genpq | keysched | enc | dec | zeroize | clrerr => decide

theorem encode_of_decode {c : Word32} {i : Instr} (h : decode c = .ok i) : i.wellFormed = true ∧ encode i = c := by
  rcases decode_cases h with ⟨rfl, hc⟩ | ⟨wb, rr, hwb, hrr, rfl, hc⟩ | ⟨rfl, hc⟩ | ⟨rfl, hc⟩ | ⟨rfl, hc⟩ | ⟨rfl, hc⟩
    | ⟨idx, hidx, rfl, hc⟩ | ⟨rfl, hc⟩ | ⟨rfl, hc⟩
  case inr.inl =>
    exact ⟨by simp [Instr.wellFormed, hwb, hrr], BitVec.eq_of_toNat_eq ((toNat_encode_cfg hwb hrr).trans hc.symm)⟩
  case inr.inr.inr.inr.inr.inr.inl =>
    exact ⟨by simp [Instr.wellFormed, hidx], BitVec.eq_of_toNat_eq ((toNat_encode_rds hidx).trans hc.symm)⟩
  all_goals exact ⟨rfl, BitVec.eq_of_toNat_eq hc.symm⟩

theorem cmdField_encode_op {i : Instr} (h : i.wellFormed = true) : cmdField (encode i) 7 0 = opcode i := by
  have hop : Laws.EncodesOpcode.Statement i := by
    cases i with
    | cfg wb rr => exact Laws.EncodesOpcode.cfg wb rr
    | rds idx => exact Laws.EncodesOpcode.rds idx
    | nop | genpq | keysched | enc | dec | zeroize | clrerr => exact fun _ => by decide
  exact (hop h).1

/-! ### Rows of the opcode map -/

/-- The row of a command has its mnemonic, and its opcode as the pattern. -/
theorem exists_opcodeTable_row (i : Instr) :
    ∃ r ∈ opcodeTable, r.mnemonic = i.mnemonic ∧ r.pattern.toNat = opcode i := by
  cases i <;> simp [opcodeTable, Instr.mnemonic, opcode]

theorem opcodeTable_pattern_injective :
    ∀ r ∈ opcodeTable, ∀ r' ∈ opcodeTable, r.pattern.toNat = r'.pattern.toNat → r = r' := by decide

/-- The mask of every row covers the opcode and the must-be-zero bits of its format, which are 0 in its pattern. -/
theorem opcodeTable_fields {r : OpcodeRow} (hr : r ∈ opcodeTable) :
    cmdField r.mask 7 0 = 2 ^ 8 - 1 ∧ cmdField r.pattern 7 0 = r.pattern.toNat ∧
      cmdField r.mask 31 (mbzLow r.pattern.toNat) = 2 ^ (31 - mbzLow r.pattern.toNat + 1) - 1 ∧
      cmdField r.pattern 31 (mbzLow r.pattern.toNat) = 0 := by
  revert r
  decide

/-- A word that decodes matches the row of its command. -/
theorem exists_row_of_decode {c : Word32} {i : Instr} (h : decode c = .ok i) :
    ∃ r ∈ opcodeTable, r.mnemonic = i.mnemonic ∧ r.matchesWord c = true := by
  obtain ⟨r, hr, hmn, hpat⟩ := exists_opcodeTable_row i
  obtain ⟨hwf, rfl⟩ := encode_of_decode h
  obtain ⟨-, hfield, -⟩ := opcodeTable_fields hr
  exact ⟨r, hr, hmn, matchesWord_of_decode h hr (by rw [cmdField_encode_op hwf, hfield, hpat])⟩

/-- A field that the mask of a matching row covers is that field of the row's pattern. -/
theorem cmdField_of_matchesWord {r : OpcodeRow} {c : Word32} (h : r.matchesWord c = true) {hi lo : Nat}
    (hm : cmdField r.mask hi lo = 2 ^ (hi - lo + 1) - 1) : cmdField c hi lo = cmdField r.pattern hi lo := by
  rw [← of_decide_eq_true h]
  simp only [cmdField] at hm ⊢
  rw [BitVec.toNat_and, Nat.and_div_two_pow, Nat.and_mod_two_pow, hm, Nat.and_two_pow_sub_one_eq_mod, Nat.mod_mod]

/-- An opcode of the map with its must-be-zero bits 0 decodes (R96). -/
theorem decode_of_fields {c : Word32} (hop : cmdField c 7 0 < 9) (hmbz : cmdField c 31 (mbzLow (cmdField c 7 0)) = 0) :
    ∃ i, decode c = .ok i := by
  unfold decode
  generalize cmdField c 7 0 = op at hop hmbz
  interval_cases op <;> exact ⟨_, if_pos hmbz⟩

theorem decode_of_matchesWord {r : OpcodeRow} (hr : r ∈ opcodeTable) {c : Word32} (h : r.matchesWord c = true) :
    ∃ i, decode c = .ok i ∧ i.mnemonic = r.mnemonic := by
  obtain ⟨hmask, hpat, hmbzMask, hmbz⟩ := opcodeTable_fields hr
  have hop : cmdField c 7 0 = r.pattern.toNat := (cmdField_of_matchesWord h hmask).trans hpat
  obtain ⟨i, hi⟩ := decode_of_fields (c := c) (hop ▸ (opcodeTable_mask hr).1)
    (by rw [hop, cmdField_of_matchesWord h hmbzMask, hmbz])
  obtain ⟨hwf, rfl⟩ := encode_of_decode hi
  obtain ⟨r', hr', hmn, hpat'⟩ := exists_opcodeTable_row i
  rw [opcodeTable_pattern_injective r hr r' hr' (by rw [← hop, cmdField_encode_op hwf, hpat'])]
  exact ⟨i, hi, hmn.symm⟩

end Sys2Proof
end

section
/-! PROOFS. The encoding of commands (spec/30_encoding.md). -/

namespace Sys2Proof.Proofs

open Sys2Proof.Machine

/-- Settles O1: CFG and RDS field by field, every other command is one word. -/
theorem decodeEncodeRoundTrip : Obligations.DecodeEncodeRoundTrip := fun _ => decode_encode

/-- Settles O2: each answer of the decoder comes with the number of its word, which is the command's encoding. -/
theorem encodeDecodeRoundTrip : Obligations.EncodeDecodeRoundTrip := fun _ _ => encode_of_decode

/-- Settles O3: a word that decodes matches the row with its opcode; a row's mask covers the opcode and the must-be-zero
bits, so a match gives both, and two rows that match one word share its opcode. -/
theorem decoderAgreesWithOpcodeMap : Obligations.DecoderAgreesWithOpcodeMap := by
  refine fun c => ⟨fun _ => exists_row_of_decode, fun r hr => decode_of_matchesWord hr, fun r hr r' hr' h h' => ?_⟩
  obtain ⟨hmask, hfield, -⟩ := opcodeTable_fields hr
  obtain ⟨hmask', hfield', -⟩ := opcodeTable_fields hr'
  refine opcodeTable_pattern_injective r hr r' hr' ?_
  rw [← hfield, ← hfield', ← cmdField_of_matchesWord h hmask, cmdField_of_matchesWord h' hmask']

/-- Settles O4: each example is one word, evaluated. -/
theorem sampleWordsDecode : Obligations.SampleWordsDecode := by
  unfold Obligations.SampleWordsDecode
  decide

end Sys2Proof.Proofs
end

section
/-! SUPPORT. What a completion writes fits its registers: the words of the datapath, the mixed tables, the block. -/

namespace Sys2Proof.Machine

/-! ### Words of the datapath and the tables fit -/

theorem one_le_w {s : State} (h : 1 ≤ s.u) : 1 ≤ s.w := by
  unfold State.w
  omega

theorem w_le_of_u_le {s : State} (h : s.u ≤ 32) : s.w ≤ 256 := by
  unfold State.w
  omega

theorem pConst_lt {w : Nat} (hw1 : 1 ≤ w) (hw : w ≤ 256) : (pConst w).toNat < 2 ^ w := magicWord_lt erom_lt hw1 hw

theorem qConst_lt {w : Nat} (hw1 : 1 ≤ w) (hw : w ≤ 256) : (qConst w).toNat < 2 ^ w := magicWord_lt phiRom_lt hw1 hw

theorem entry_initTable_lt {w t k : Nat} (hw1 : 1 ≤ w) (hw : w ≤ 256) (hk : k < t) :
    (entry (initTable w t) k).toNat < 2 ^ w := by
  rw [toNat_entry_initTable hw1 hw hk]
  exact Nat.mod_lt _ (Nat.two_pow_pos w)

theorem initTable_lt {w t : Nat} (hw1 : 1 ≤ w) (hw : w ≤ 256) {x : Word} (hx : x ∈ initTable w t) :
    x.toNat < 2 ^ w := by
  obtain ⟨k, hk, rfl⟩ := List.getElem_of_mem hx
  rw [length_initTable] at hk
  simpa [entry, hk] using entry_initTable_lt hw1 hw hk

theorem packedWord_lt {u : Nat} (hu : u ≤ 32) (b : Nat) (key : Nat → Byte) (j : Nat) :
    (packedWord u b key j).toNat < 2 ^ (8 * u) := by
  simpa [packedWord] using wordOfBytes_lt
    (bs := (List.range u).map fun k => if j * u + k < b then key (j * u + k) else 0) (by simpa using hu)

theorem packKey_lt {u : Nat} (hu : u ≤ 32) {b ll : Nat} {key : Nat → Byte} {x : Word} (hx : x ∈ packKey u b ll key) :
    x.toNat < 2 ^ (8 * u) := by
  obtain ⟨j, -, rfl⟩ := List.mem_map.mp hx
  exact packedWord_lt hu b key j

theorem replicate_zero_lt (n W : Nat) : ∀ x ∈ List.replicate n (0 : Word), x.toNat < 2 ^ W := by
  intro x hx
  rw [List.eq_of_mem_replicate hx]
  exact Nat.two_pow_pos W

theorem encRounds_lt {w : Nat} (hw : w ≤ 256) (tab : List Word) {ab : Block}
    (h : ab.1.toNat < 2 ^ w ∧ ab.2.toNat < 2 ^ w) (r : Nat) :
    (encRounds w tab r ab).1.toNat < 2 ^ w ∧ (encRounds w tab r ab).2.toNat < 2 ^ w := by
  cases r with
  | zero => exact h
  | succ r => exact ⟨addW_lt hw _ _, addW_lt hw _ _⟩

theorem encryptBlock_lt {w : Nat} (hw : w ≤ 256) (tab : List Word) (r : Nat) (ab : Block) :
    (encryptBlock w tab r ab).1.toNat < 2 ^ w ∧ (encryptBlock w tab r ab).2.toNat < 2 ^ w :=
  encRounds_lt hw tab ⟨addW_lt hw _ _, addW_lt hw _ _⟩ r

theorem decryptBlock_lt {w : Nat} (hw : w ≤ 256) (tab : List Word) (r : Nat) (ab : Block) :
    (decryptBlock w tab r ab).1.toNat < 2 ^ w ∧ (decryptBlock w tab r ab).2.toNat < 2 ^ w :=
  ⟨subW_lt hw _ _, subW_lt hw _ _⟩

/-- A key of at most KEYMAX bytes fills at most LMAX words (spec/42_keysched.md R163). -/
theorem ceilDiv_le_lmax {b u : Nat} (hu : 1 ≤ u) (hb : b ≤ 255) : ceilDiv b u ≤ 255 := by
  have hmul : 255 ≤ u * 255 := Nat.le_mul_of_pos_left 255 hu
  rw [ceilDiv, Nat.div_le_iff_le_mul_add_pred hu]
  omega

theorem llEff_le_lmax {s : State} (hu : 1 ≤ s.u) (hb : s.b ≤ 255) : s.llEff ≤ 255 :=
  max_le (ceilDiv_le_lmax hu hb) (by decide)

/-! ### The mixing phase keeps the lengths and the bounds of its tables -/

@[simp] theorem length_sTab_mixRun (w t ll n : Nat) (m : Mixing) :
    (mixRun w t ll n m).sTab.length = m.sTab.length := by
  induction n generalizing m with
  | zero => rfl
  | succ n ih => simp [mixRun, ih, mixStep]

@[simp] theorem length_lTab_mixRun (w t ll n : Nat) (m : Mixing) :
    (mixRun w t ll n m).lTab.length = m.lTab.length := by
  induction n generalizing m with
  | zero => rfl
  | succ n ih => simp [mixRun, ih, mixStep]

theorem length_sTab_mixStart {s : State} (h : s.t ≤ s.sTab.length) : (mixStart s).sTab.length = s.sTab.length := by
  simp [mixStart, h]

theorem length_lTab_mixStart {s : State} (h : s.llEff ≤ s.lTab.length) : (mixStart s).lTab.length = s.lTab.length := by
  simp [mixStart, h]

/-- Both tables hold W-bit words, and the first t entries of S and the working words are w-bit words. -/
structure MixFits (w W t : Nat) (m : Mixing) : Prop where
  head : ∀ k < t, (entry m.sTab k).toNat < 2 ^ w
  sTab : ∀ x ∈ m.sTab, x.toNat < 2 ^ W
  lTab : ∀ x ∈ m.lTab, x.toNat < 2 ^ W
  a : m.work.a.toNat < 2 ^ w
  b : m.work.b.toNat < 2 ^ w

theorem entry_set_lt {tab : List Word} {k B : Nat} (h : (entry tab k).toNat < B) (i : Nat) {v : Word}
    (hv : v.toNat < B) : (entry (tab.set i v) k).toNat < B := by
  by_cases hi : i < tab.length
  · rw [entry_set hi]
    split
    · exact hv
    · exact h
  · rwa [List.set_eq_of_length_le (Nat.not_lt.mp hi)]

theorem mem_set_lt {tab : List Word} {B : Nat} (h : ∀ x ∈ tab, x.toNat < B) {i : Nat} {v : Word} (hv : v.toNat < B) :
    ∀ x ∈ tab.set i v, x.toNat < B := by
  intro x hx
  rcases List.mem_or_eq_of_mem_set hx with hx | rfl
  · exact h x hx
  · exact hv

theorem MixFits.step {w W t ll : Nat} {m : Mixing} (hw : w ≤ 256) (hW : w ≤ W) (h : MixFits w W t m) :
    MixFits w W t (mixStep w t ll m) := by
  have ha : (mixStep w t ll m).work.a.toNat < 2 ^ w := rotlW_lt hw (addW_lt hw _ _) _
  have hb : (mixStep w t ll m).work.b.toNat < 2 ^ w := rotlW_lt hw (addW_lt hw _ _) _
  have hle : 2 ^ w ≤ 2 ^ W := Nat.pow_le_pow_right (by decide) hW
  exact ⟨fun k hk => entry_set_lt (h.head k hk) _ ha, mem_set_lt h.sTab (ha.trans_le hle),
    mem_set_lt h.lTab (hb.trans_le hle), ha, hb⟩

theorem MixFits.run {w W t ll : Nat} {m : Mixing} (hw : w ≤ 256) (hW : w ≤ W) (h : MixFits w W t m) (n : Nat) :
    MixFits w W t (mixRun w t ll n m) := by
  induction n generalizing m with
  | zero => exact h
  | succ n ih => exact ih (h.step hw hW)

theorem entry_append_left {l l' : List Word} {k : Nat} (h : k < l.length) : entry (l ++ l') k = entry l k :=
  List.getD_append l l' 0 k h

/-! ### The block -/

/-- Writing the block back lists offsets of BLK[0..2u-1] only. -/
theorem mem_withBlock {s : State} {a b : Word} {c : Host.Cell} (h : c ∈ withBlock s a b) :
    c ∈ s.mem ∨ (0x200 ≤ c.1 ∧ c.1 < 0x200 + 2 * s.u) := by
  rcases Memory.mem_writeBytes h with h | h
  · rcases Memory.mem_writeBytes h with h | h
    · exact .inl h
    · simp only [length_bytesOfWord, blkBase] at h
      exact .inr (by omega)
  · simp only [length_bytesOfWord, blkBase] at h
    exact .inr (by omega)

/-! ### The one check of KEYSCHED, and the engine's turn -/

theorem keylen_le_of_accepted {s : State} (ha : acceptError .keysched s = none) : s.keylen.toNat ≤ 255 := by
  by_contra hlong
  simp [acceptError_keysched_of_long (Nat.lt_of_not_le hlong)] at ha

theorem engineStep_of_decode {s : State} {i : Instr} (hb : s.status.busy = true) (hd : decode s.pend = .ok i) :
    engineStep s = exec i s := by
  simp [engineStep, fetchCommand, hb, hd]

end Sys2Proof.Machine
end

section
/-! SUPPORT. Every completion, host access and reset keeps the invariant (spec/10_state.md R40), one lemma per operation. -/

namespace Sys2Proof.Safety

open Sys2Proof.Machine

/-! ### What the invariant bounds -/

section
variable {s : State} (h : Inv s)
include h

theorem Inv.u_le : s.u ≤ 32 := h.widthLegal.2.trans h.paramsLegal.2.1

theorem Inv.one_le_w : 1 ≤ s.w := Machine.one_le_w h.widthLegal.1

theorem Inv.w_le : s.w ≤ 256 := w_le_of_u_le h.u_le

theorem Inv.w_le_wmax : s.w ≤ s.params.wmax := Nat.mul_le_mul_left 8 h.widthLegal.2

theorem Inv.lt_wmax {n : Nat} (hn : n < 2 ^ s.w) : n < 2 ^ s.params.wmax := Machine.lt_wmax h.widthLegal.2 hn

theorem Inv.t_le : s.t ≤ s.sTab.length := by
  have := h.roundsLegal
  rw [h.sLength, State.t, Params.tmax]
  omega

theorem Inv.llEff_le (hb : s.b ≤ 255) : s.llEff ≤ s.lTab.length :=
  (llEff_le_lmax h.widthLegal.1 hb).trans_eq h.lLength.symm

/-- Each word register is a WMAX-bit word. -/
theorem Inv.regs_lt : s.p.toNat < 2 ^ s.params.wmax ∧ s.q.toNat < 2 ^ s.params.wmax ∧
    s.sout.toNat < 2 ^ s.params.wmax ∧ s.work.a.toNat < 2 ^ s.params.wmax ∧ s.work.b.toNat < 2 ^ s.params.wmax := by
  simpa using h.regsFit

theorem Inv.pConst_lt : (pConst s.w).toNat < 2 ^ s.params.wmax :=
  h.lt_wmax (Machine.pConst_lt h.one_le_w h.w_le)

theorem Inv.qConst_lt : (qConst s.w).toNat < 2 ^ s.params.wmax :=
  h.lt_wmax (Machine.qConst_lt h.one_le_w h.w_le)

theorem Inv.mixFits_mixStart : MixFits s.w s.params.wmax s.t (mixStart s) where
  head k hk := by
    rw [mixStart, entry_append_left (by simpa using hk)]
    exact entry_initTable_lt h.one_le_w h.w_le hk
  sTab x hx := by
    rcases List.mem_append.mp hx with hx | hx
    · exact h.lt_wmax (initTable_lt h.one_le_w h.w_le hx)
    · exact h.sFits x (List.mem_of_mem_drop hx)
  lTab x hx := by
    rcases List.mem_append.mp hx with hx | hx
    · exact h.lt_wmax (packKey_lt h.u_le hx)
    · exact h.lFits x (List.mem_of_mem_drop hx)
  a := Nat.two_pow_pos _
  b := Nat.two_pow_pos _

/-! ### Completions -/

theorem Inv.finish_nop : Inv (finishCommand s) := { h with pendAccepted := nofun }

theorem Inv.finish_cfg {wb rr : Nat} (ha : acceptError (.cfg wb rr) s = none) :
    Inv (finishCommand (configure wb rr s)) := by
  obtain ⟨-, hwmax, -, hrmax, -⟩ := h.paramsLegal
  obtain ⟨hwb1, hwb, hrr⟩ : wb ≠ 0 ∧ wb ≤ s.params.wmaxBytes ∧ rr ≤ s.params.rmax := by
    simpa [acceptError, checkCfg] using ha
  have hu : (finishCommand (configure wb rr s)).u = wb := by simp [State.u]; omega
  have hr : (finishCommand (configure wb rr s)).rounds = rr := by simp [State.rounds]; omega
  exact { h with
    widthLegal := by rw [hu]; exact ⟨Nat.one_le_iff_ne_zero.mpr hwb1, hwb⟩
    roundsLegal := by rw [hr]; exact hrr
    scheduleFits := nofun
    constantsHeld := nofun
    pendAccepted := nofun }

theorem Inv.finish_genpq : Inv (finishCommand (generateConstants s)) := by
  obtain ⟨-, -, hsout, ha, hb⟩ := h.regs_lt
  exact { h with
    regsFit := by simpa using ⟨h.pConst_lt, h.qConst_lt, hsout, ha, hb⟩
    constantsHeld := fun _ => ⟨rfl, rfl⟩
    pendAccepted := nofun }

theorem Inv.finish_keysched (ha : acceptError .keysched s = none) : Inv (finishCommand (expandKey s)) := by
  have hb : s.b ≤ 255 := keylen_le_of_accepted ha
  have hfits := h.mixFits_mixStart.run (ll := s.llEff) h.w_le h.w_le_wmax (mixCount s.t s.llEff)
  obtain ⟨-, -, hsout, -, -⟩ := h.regs_lt
  exact { h with
    sLength := (length_sTab_mixRun ..).trans ((length_sTab_mixStart h.t_le).trans h.sLength)
    lLength := (length_lTab_mixRun ..).trans ((length_lTab_mixStart (h.llEff_le hb)).trans h.lLength)
    regsFit := by
      simpa using ⟨h.pConst_lt, h.qConst_lt, hsout, h.lt_wmax hfits.a, h.lt_wmax hfits.b⟩
    sFits := hfits.sTab
    lFits := hfits.lTab
    scheduleFits := fun _ => hfits.head
    constantsHeld := fun _ => ⟨rfl, rfl⟩
    pendAccepted := nofun }

/-- ENC and DEC: a block of w-bit words is written back over `BLK[0..2u-1]`. -/
theorem Inv.finish_storeBlock {ab : Block} (hab : ab.1.toNat < 2 ^ s.w ∧ ab.2.toNat < 2 ^ s.w) :
    Inv (finishCommand (storeBlock ab s)) := by
  obtain ⟨hp, hq, hsout, -, -⟩ := h.regs_lt
  exact { h with
    memCanonical := withBlock_wf h.memCanonical _ _
    memStored := fun cell hcell => by
      have hu := h.widthLegal.2
      rcases mem_withBlock hcell with hcell | ⟨hlo, hhi⟩
      · exact h.memStored cell hcell
      · exact (isStored_iff ..).mpr (.inr ⟨hlo, hhi.trans_le (by simpa using hu)⟩)
    regsFit := by simpa using ⟨hp, hq, hsout, h.lt_wmax hab.1, h.lt_wmax hab.2⟩
    pendAccepted := nofun }

theorem Inv.finish_rds (idx : Nat) : Inv (finishCommand (readTableEntry idx s)) := by
  obtain ⟨hp, hq, -, ha, hb⟩ := h.regs_lt
  exact { h with
    regsFit := by simpa using ⟨hp, hq, entry_lt (Nat.two_pow_pos _) h.sFits idx, ha, hb⟩
    pendAccepted := nofun }

theorem Inv.finish_zeroize : Inv (finishCommand (zeroizeKeys s)) := by
  obtain ⟨-, -, -, ha, hb⟩ := h.regs_lt
  exact { h with
    memCanonical := rfl
    memStored := nofun
    sLength := List.length_replicate
    lLength := List.length_replicate
    regsFit := by simpa using ⟨ha, hb⟩
    sFits := replicate_zero_lt _ _
    lFits := replicate_zero_lt _ _
    scheduleFits := nofun
    constantsHeld := nofun
    pendAccepted := nofun }

theorem Inv.finish_clrerr : Inv (finishCommand (clearErrorRecord s)) :=
  { h with noErrorNoRecord := fun _ => ⟨rfl, rfl, rfl⟩, pendAccepted := nofun }

theorem Inv.finish_effect {i : Instr} (ha : acceptError i s = none) : Inv (finishCommand (effect i s)) := by
  cases i with
  | nop => exact h.finish_nop
  | cfg wb rr => exact h.finish_cfg ha
  | genpq => exact h.finish_genpq
  | keysched => exact h.finish_keysched ha
  | enc => exact h.finish_storeBlock (encryptBlock_lt h.w_le _ _ _)
  | dec => exact h.finish_storeBlock (decryptBlock_lt h.w_le _ _ _)
  | rds idx => exact h.finish_rds idx
  | zeroize => exact h.finish_zeroize
  | clrerr => exact h.finish_clrerr

/-! ### Host accesses -/

/-- The clause on the pending command reads BUSY, PEND and what the checks read. -/
theorem Inv.pending_congr {t : State} (hb : t.status.busy = s.status.busy) (hpend : t.pend = s.pend)
    (hp : t.params = s.params) (hr : t.status.cfgR = s.status.cfgR) (hv : t.status.svalid = s.status.svalid)
    (hk : t.keylen = s.keylen) : t.status.busy = true → ∃ i, decode t.pend = .ok i ∧ acceptError i t = none := by
  intro hbusy
  obtain ⟨i, hd, ha⟩ := h.pendAccepted (hb ▸ hbusy)
  exact ⟨i, hpend ▸ hd, (acceptError_congr i hp hr hv hk).trans ha⟩

/-- The invariant does not read INTEN, INTSTAT, the response, the agenda and the draw counter. -/
theorem Inv.after_setUnread (ie ip : IntBits) (r : Option BusResp) (ag : List Event) (d : Nat) :
    Inv { s with inten := ie, intstat := ip, resp := r, agenda := ag, draws := d } :=
  { h with pendAccepted := h.pending_congr rfl rfl rfl rfl rfl rfl }

theorem Inv.after_pop : Inv (popAgenda s) := h.after_setUnread s.inten s.intstat s.resp s.agenda.tail s.draws

theorem Inv.after_respond (r : BusResp) : Inv (respond r s) :=
  h.after_setUnread s.inten s.intstat (some r) s.agenda s.draws

theorem Inv.after_raiseError (e : EngineError) : Inv (raiseError e s) := by
  have hpend := h.pending_congr (t := raiseError e s) (by simp) (by simp) (by simp) (by simp) (by simp) (by simp)
  cases herr : s.status.err
  · rw [raiseError_first herr] at hpend ⊢
    exact { h with noErrorNoRecord := nofun, pendAccepted := hpend }
  · rw [raiseError_later herr] at hpend ⊢
    exact { h with
      noErrorNoRecord := fun hno => absurd (herr.symm.trans hno) (by decide)
      pendAccepted := hpend }

theorem Inv.after_acceptCommand {c : Word32} {i : Instr} (hd : decode c = .ok i) (ha : acceptError i s = none) :
    Inv (acceptCommand c s) :=
  { h with pendAccepted := fun _ => ⟨i, hd, (acceptError_congr i rfl rfl rfl rfl).trans ha⟩ }

theorem Inv.after_setKeylen (hidle : s.status.busy = false) (n : BitVec 16) : Inv { s with keylen := n } :=
  { h with pendAccepted := fun hb => absurd (hidle.symm.trans hb) (by decide) }

theorem Inv.after_storeBytes (off : Nat) (vs : List Byte) :
    Inv { s with mem := storeBytes s.params s.mem off vs } :=
  { h with
    memCanonical := storeBytes_wf s.params h.memCanonical off vs
    memStored := fun cell hcell => (mem_storeBytes hcell).elim (h.memStored cell) id
    pendAccepted := h.pending_congr rfl rfl rfl rfl rfl rfl }

theorem Inv.after_busRead (off : Nat) (size : AccessSize) : Inv (busRead off size s) := by
  obtain ⟨r, d, hr⟩ := busRead_eq off size s
  rw [hr]
  exact h.after_setUnread s.inten s.intstat (some r) s.agenda d

theorem Inv.after_busWrite (off : Nat) (size : AccessSize) (v : Word32) : Inv (busWrite off size v s) := by
  obtain ⟨r, s', hw, hs'⟩ := busWrite_cases off size v s
  rw [hw]
  refine Inv.after_respond ?_ r
  rcases hs' with rfl | ⟨e, rfl⟩ | ⟨-, -, -, i, hd, ha, rfl⟩ | ⟨hidle, -, -, rfl⟩ | ⟨-, -, rfl⟩ | ⟨-, -, rfl⟩ | ⟨-, -, rfl⟩
  · exact h
  · exact h.after_raiseError e
  · exact h.after_acceptCommand hd ha
  · exact h.after_setKeylen hidle _
  · exact h.after_setUnread _ s.intstat s.resp s.agenda s.draws
  · exact h.after_setUnread s.inten _ s.resp s.agenda s.draws
  · exact h.after_storeBytes off _

theorem Inv.after_hostAccess (addr : Nat) {access : Nat → State → State} (hacc : ∀ off, Inv (access off s)) :
    Inv (hostAccess addr access s) := by
  rcases hostAccess_cases addr access s with ⟨off, -, -, -, hx⟩ | hx <;> rw [hx]
  · exact hacc off
  · exact h.after_setUnread s.inten s.intstat none s.agenda s.draws

/-! ### Steps -/

/-- A busy engine's turn completes the command in PEND, whose checks pass. -/
theorem Inv.engineStep_of_busy (hb : s.status.busy = true) :
    ∃ i, decode s.pend = .ok i ∧ acceptError i s = none ∧ engineStep s = .next (finishCommand (effect i s)) := by
  obtain ⟨i, hd, ha⟩ := h.pendAccepted hb
  exact ⟨i, hd, ha, (engineStep_of_decode hb hd).trans (exec_accepted ha)⟩

theorem Inv.engineStep_next : ∃ t, engineStep s = .next t ∧ Inv t := by
  rcases engineStep_cases s with ⟨-, hx⟩ | ⟨hb, -⟩ | ⟨hb, -⟩
  · exact ⟨s, hx, h⟩
  all_goals
    obtain ⟨i, -, ha, hx⟩ := h.engineStep_of_busy hb
    exact ⟨_, hx, h.finish_effect ha⟩

end

theorem inv_resetWith {p : Params} (hp : p.Legal) (ag : List Event) : Inv { State.resetWith p with agenda := ag } where
  paramsLegal := hp
  widthLegal := ⟨(by decide : 1 ≤ (4 : BitVec 8).toNat), le_trans (by decide : (4 : BitVec 8).toNat ≤ 8) hp.1⟩
  roundsLegal := le_trans (by decide : (16 : BitVec 8).toNat ≤ 32) hp.2.2.1
  memCanonical := rfl
  memStored := nofun
  sLength := List.length_replicate
  lLength := List.length_replicate
  regsFit := by simp [State.resetWith]
  sFits := replicate_zero_lt _ _
  lFits := replicate_zero_lt _ _
  scheduleFits := nofun
  constantsHeld := nofun
  noErrorNoRecord _ := ⟨rfl, rfl, rfl⟩
  pendAccepted := nofun

theorem Inv.after_applyReset {s : State} (h : Inv s) : Inv (applyReset s) :=
  (inv_resetWith h.paramsLegal s.agenda).after_setUnread ⟨false, false⟩ ⟨false, false⟩ none s.agenda s.draws

/-- From a state that meets the invariant the next step does not stop, and leads to a state that meets it. -/
theorem Inv.step_next {s : State} (h : Inv s) : ∃ t, step s = .next t ∧ Inv t := by
  have hpop := h.after_pop
  rcases step_cases s with ⟨hx, -⟩ | ⟨addr, size, -, -, hx⟩ | ⟨addr, size, v, -, -, hx⟩ | ⟨-, -, hx⟩ <;> rw [hx]
  · exact hpop.engineStep_next
  · exact ⟨_, rfl, hpop.after_hostAccess addr fun off => hpop.after_busRead off size⟩
  · exact ⟨_, rfl, hpop.after_hostAccess addr fun off => hpop.after_busWrite off size v⟩
  · exact ⟨_, rfl, hpop.after_applyReset⟩

theorem Inv.of_step {s t : State} (h : Inv s) (hst : step s = .next t) : Inv t := by
  obtain ⟨t', hx, ht'⟩ := h.step_next
  cases hx.symm.trans hst
  exact ht'

theorem inv_of_reachable {s : State} (h : Safety.Reachable s) : Inv s := by
  induction h with
  | reset p ag hp => exact inv_resetWith hp ag
  | next s t _ hst ih => exact ih.of_step hst

end Sys2Proof.Safety
end

section
/-! PROOFS. The invariant of the machine (spec/10_state.md R40). -/

namespace Sys2Proof.Proofs

open Sys2Proof.Machine

/-- Settles O51: the engine's turn completes an accepted command, and each completion, each host access and a reset keep the
invariant. -/
theorem stepKeepsInvariant : Obligations.StepKeepsInvariant := fun _ _ h hst => h.of_step hst

/-- Settles O52: the one fault asks for a pending word that is no command, and an accepted command completes. -/
theorem invariantStatesNeverStop : Obligations.InvariantStatesNeverStop := by
  intro s h
  obtain ⟨t, hst, -⟩ := h.step_next
  exact ⟨t, hst⟩

/-- Settles O50: a legal part holds the 4 bytes and 16 rounds of the reset state, and every word of it is 0. -/
theorem resetMeetsInvariant : Obligations.ResetMeetsInvariant := fun _ ag hp => Safety.inv_resetWith hp ag

end Sys2Proof.Proofs
end

section
/-! SUPPORT. What an effect and a host access keep, and what a step can lead to, said once for the statements about steps. -/

namespace Sys2Proof.Machine

open Safety (EngineNext)

/-! ### What the effects keep (spec/44_control.md R202) -/

section
variable (i : Instr) (s : State)

@[simp] theorem effect_params : (effect i s).params = s.params := by cases i <;> rfl
@[simp] theorem effect_inten : (effect i s).inten = s.inten := by cases i <;> rfl
@[simp] theorem effect_intstat : (effect i s).intstat = s.intstat := by cases i <;> rfl
@[simp] theorem effect_pend : (effect i s).pend = s.pend := by cases i <;> rfl
@[simp] theorem effect_agenda : (effect i s).agenda = s.agenda := by cases i <;> rfl
@[simp] theorem effect_resp : (effect i s).resp = s.resp := by cases i <;> rfl
@[simp] theorem effect_draws : (effect i s).draws = s.draws := by cases i <;> rfl

end

theorem effect_keeps_record {i : Instr} (hi : i ≠ .clrerr) (s : State) :
    (effect i s).status.err = s.status.err ∧ (effect i s).status.errovf = s.status.errovf ∧
      (effect i s).status.ecode = s.status.ecode ∧ (effect i s).errinfo = s.errinfo := by
  cases i
  case clrerr => exact absurd rfl hi
  all_goals exact ⟨rfl, rfl, rfl, rfl⟩

theorem effect_keeps_tables {i : Instr} (hk : i ≠ .keysched) (hz : i ≠ .zeroize) (s : State) :
    (effect i s).sTab = s.sTab ∧ (effect i s).lTab = s.lTab := by
  cases i
  case keysched => exact absurd rfl hk
  case zeroize => exact absurd rfl hz
  all_goals exact ⟨rfl, rfl⟩

theorem exec_agenda {i : Instr} {s t : State} (h : exec i s = .next t) : t.agenda = s.agenda := by
  rcases exec_cases i s with ⟨-, hx⟩ | ⟨e, -, hx⟩ <;> cases hx.symm.trans h <;> simp

theorem exec_sTab {i : Instr} (hk : i ≠ .keysched) (hz : i ≠ .zeroize) {s t : State} (h : exec i s = .next t) :
    t.sTab = s.sTab := by
  rcases exec_cases i s with ⟨-, hx⟩ | ⟨e, -, hx⟩ <;> cases hx.symm.trans h
  · exact (effect_keeps_tables hk hz s).1
  · simp

/-! ### Host accesses -/

/-- What one host access can make of a state: it is lost outside the aperture, or it is a read or a write. -/
inductive HostResult (s : State) : State → Prop where
  | lost : HostResult s { s with resp := none }
  | read (off : Nat) (size : AccessSize) : HostResult s (busRead off size s)
  | write (off : Nat) (size : AccessSize) (v : Word32) : HostResult s (busWrite off size v s)

theorem hostResult_hostAccess (addr : Nat) {access : Nat → State → State} {s : State}
    (h : ∀ off, HostResult s (access off s)) : HostResult s (hostAccess addr access s) := by
  rcases hostAccess_cases addr access s with ⟨off, -, -, -, hx⟩ | hx <;> rw [hx]
  · exact h off
  · exact .lost

theorem hostAccess_of_inside {addr : Nat} {access : Nat → State → State} {s : State} (hlo : s.params.base ≤ addr)
    (hhi : addr < s.params.base + 4096) : hostAccess addr access s = access (addr - s.params.base) s := by
  simp [hostAccess, apertureOffset, hlo, hhi]

theorem hostAccess_of_outside {addr : Nat} {access : Nat → State → State} {s : State}
    (h : addr < s.params.base ∨ s.params.base + 4096 ≤ addr) : hostAccess addr access s = { s with resp := none } := by
  have hout : ¬(s.params.base ≤ addr ∧ addr < s.params.base + 4096) := by omega
  simp [hostAccess, apertureOffset, hout]

theorem HostResult.agenda_sTab {s t : State} (h : HostResult s t) : t.agenda = s.agenda ∧ t.sTab = s.sTab := by
  cases h with
  | lost => exact ⟨rfl, rfl⟩
  | read off size =>
    obtain ⟨r, d, h⟩ := busRead_eq off size s
    simp [h]
  | write off size v =>
    obtain ⟨r, s', h, hs'⟩ := busWrite_cases off size v s
    rw [h]
    rcases hs' with rfl | ⟨e, rfl⟩ | ⟨-, -, -, i, -, -, rfl⟩ | ⟨-, -, -, rfl⟩ | ⟨-, -, rfl⟩ | ⟨-, -, rfl⟩ | ⟨-, -, rfl⟩
      <;> simp

/-- While busy, a write leaves the engine but for an error, INTEN, INTSTAT and the response (spec/70_reset_and_hazards.md
R280). -/
theorem busWrite_cases_of_busy {s : State} (hb : s.status.busy = true) (off : Nat) (size : AccessSize) (v : Word32) :
    ∃ r s', busWrite off size v s = respond r s' ∧
      (s' = s ∨ (∃ e, s' = raiseError e s) ∨ (∃ ie ip, s' = { s with inten := ie, intstat := ip })) := by
  obtain ⟨r, s', h, hs'⟩ := busWrite_cases off size v s
  refine ⟨r, s', h, ?_⟩
  simp only [hb, Bool.true_and, Bool.true_eq_false, false_and, false_or] at hs'
  rcases hs' with rfl | he | ⟨-, -, rfl⟩ | ⟨-, -, rfl⟩ | ⟨huntouched, -, rfl⟩
  · exact .inl rfl
  · exact .inr (.inl he)
  · exact .inr (.inr ⟨_, s.intstat, rfl⟩)
  · exact .inr (.inr ⟨s.inten, _, rfl⟩)
  · exact .inl (by rw [storeBytes_of_untouched s.mem huntouched _ (length_toLE ..).le])

/-- From s to t everything a command reads is kept (spec/70_reset_and_hazards.md R282). -/
structure KeepsInputs (s t : State) : Prop where
  busy : t.status.busy = s.status.busy
  pend : t.pend = s.pend
  keylen : t.keylen = s.keylen
  mem : t.mem = s.mem
  params : t.params = s.params
  cfgWB : t.status.cfgWB = s.status.cfgWB
  cfgR : t.status.cfgR = s.status.cfgR
  svalid : t.status.svalid = s.status.svalid
  sTab : t.sTab = s.sTab

theorem HostResult.keepsInputs {s t : State} (h : HostResult s t) (hb : s.status.busy = true) : KeepsInputs s t := by
  cases h with
  | lost => constructor <;> rfl
  | read off size =>
    obtain ⟨r, d, h⟩ := busRead_eq off size s
    constructor <;> rw [h]
  | write off size v =>
    obtain ⟨r, s', h, rfl | ⟨e, rfl⟩ | ⟨ie, ip, rfl⟩⟩ := busWrite_cases_of_busy hb off size v
    all_goals constructor <;> simp [h]

/-! ### Steps -/

theorem step_of_engineNext {s : State} (h : EngineNext s) : step s = engineStep (popAgenda s) := by
  rcases h with hnil | hhead
  · rw [step_of_nil hnil, popAgenda_of_nil hnil]
  · rw [step_of_cons (List.eq_cons_of_mem_head? hhead)]
    rfl

theorem engineStep_of_idle {s : State} (hb : s.status.busy = false) : engineStep s = .next s := by
  simp [engineStep, fetchCommand, hb]

theorem engineStep_agenda {s t : State} (h : engineStep s = .next t) : t.agenda = s.agenda := by
  rcases engineStep_cases s with ⟨-, hx⟩ | ⟨-, i, -, hx⟩ | ⟨-, -, hx⟩
  · cases hx.symm.trans h
    rfl
  · exact exec_agenda (hx.symm.trans h)
  · cases hx.symm.trans h

/-- A step that answers a next state is the engine's turn, a host access, or a reset. -/
theorem step_inversion {s t : State} (h : step s = .next t) :
    (EngineNext s ∧ engineStep (popAgenda s) = .next t) ∨ HostResult (popAgenda s) t ∨
      (s.agenda.head? = some .reset ∧ t = applyReset (popAgenda s)) := by
  rcases step_cases s with ⟨hx, hturn⟩ | ⟨addr, size, _, -, hx⟩ | ⟨addr, size, v, _, -, hx⟩ | ⟨rest, ha, hx⟩
  · exact .inl ⟨hturn, hx.symm.trans h⟩
  · cases hx.symm.trans h
    exact .inr (.inl (hostResult_hostAccess addr fun off => .read off size))
  · cases hx.symm.trans h
    exact .inr (.inl (hostResult_hostAccess addr fun off => .write off size v))
  · cases hx.symm.trans h
    exact .inr (.inr ⟨by rw [ha]; rfl, rfl⟩)

/-- A step takes one event off the agenda. -/
theorem step_agenda {s t : State} (h : step s = .next t) : t.agenda = s.agenda.tail := by
  rcases step_inversion h with ⟨-, hx⟩ | hhost | ⟨-, rfl⟩
  · exact engineStep_agenda hx
  · exact hhost.agenda_sTab.1
  · rfl

end Sys2Proof.Machine

namespace Sys2Proof.Safety

open Sys2Proof.Machine

theorem Inv.step_completes {s : State} (h : Inv s) (hb : s.status.busy = true) (hturn : EngineNext s) :
    ∃ i, decode s.pend = .ok i ∧ step s = .next (finishCommand (effect i (popAgenda s))) := by
  obtain ⟨i, hd, -, hx⟩ := h.after_pop.engineStep_of_busy hb
  exact ⟨i, hd, (step_of_engineNext hturn).trans hx⟩

/-- The engine has the turn at the latest when the agenda is used up. -/
theorem Inv.becomes_idle {s : State} (h : Inv s) (hb : s.status.busy = true) :
    ∃ k ≤ s.agenda.length + 1, ∃ t, StepsTo k s t ∧ t.status.busy = false := by
  induction hag : s.agenda generalizing s with
  | nil =>
    obtain ⟨i, -, hst⟩ := h.step_completes hb (.inl hag)
    exact ⟨1, by simp, _, .succ 0 s _ _ hst (.zero _), rfl⟩
  | cons e rest ih =>
    obtain ⟨t, hst, ht⟩ := h.step_next
    have hrest : t.agenda = rest := by rw [step_agenda hst, hag, List.tail_cons]
    cases hbt : t.status.busy with
    | false => exact ⟨1, by simp, t, .succ 0 s t t hst (.zero t), hbt⟩
    | true =>
      obtain ⟨k, hk, r, hrun, hidle⟩ := ih ht hbt hrest
      exact ⟨k + 1, Nat.succ_le_succ hk, r, .succ k s t r hst hrun, hidle⟩

end Sys2Proof.Safety
end

section
/-! PROOFS. Steps of the machine: what they keep and where they lead. -/

namespace Sys2Proof.Proofs

open Sys2Proof.Machine

/-- Settles O47: such a step is a host access, and the checks read nothing that a host access changes while busy. -/
theorem inputsAreFrozenWhileBusy : Obligations.InputsAreFrozenWhileBusy := by
  intro s t hb hturn hreset hst
  rcases step_inversion hst with ⟨hnext, -⟩ | hhost | ⟨hhead, -⟩
  · exact absurd hnext hturn
  · have k := hhost.keepsInputs hb
    exact ⟨k.busy.trans hb, k.pend, k.keylen, k.mem, k.cfgWB, k.cfgR, k.svalid, k.sTab,
      fun i => acceptError_congr i k.params k.cfgR k.svalid k.keylen⟩
  · exact absurd hhead hreset

/-- Settles O48: a host access keeps S, and so does every command but KEYSCHED and ZEROIZE. -/
theorem tableWrittenOnlyBy : Obligations.TableWrittenOnlyBy := by
  intro s t hst hne
  rcases step_inversion hst with ⟨hturn, hx⟩ | hhost | ⟨hhead, -⟩
  · rcases engineStep_cases (popAgenda s) with ⟨-, hx'⟩ | ⟨hb, i, hd, hx'⟩ | ⟨-, -, hx'⟩
    · cases hx'.symm.trans hx
      exact absurd rfl hne
    · by_cases hk : i = .keysched
      · exact .inr ⟨hturn, hb, .inl (hk ▸ hd)⟩
      · by_cases hz : i = .zeroize
        · exact .inr ⟨hturn, hb, .inr (hz ▸ hd)⟩
        · exact absurd (exec_sTab hk hz (hx'.symm.trans hx)) hne
    · cases hx'.symm.trans hx
  · exact absurd hhost.agenda_sTab.2 hne
  · exact .inl hhead

/-- Settles O49: the step is the completion of the command in PEND, and only CLRERR's effect touches the record. -/
theorem acceptedCommandCannotFail : Obligations.AcceptedCommandCannotFail := by
  intro s h hb hturn
  obtain ⟨i, hd, hst⟩ := h.step_completes hb hturn
  refine ⟨i, _, hd, hst, rfl, by simp [popAgenda], fun hi => effect_keeps_record hi (popAgenda s), ?_⟩
  rintro rfl
  exact ⟨rfl, rfl, rfl, rfl⟩

/-- Settles O53: each clause is a clause of the invariant, P_w and Q_w are odd, and an idle engine fetches nothing. -/
theorem reachableStatesMeetR40 : Obligations.ReachableStatesMeetR40 := by
  intro s hs
  have h := Safety.inv_of_reachable hs
  refine ⟨⟨h.widthLegal.1, h.widthLegal.2, h.roundsLegal⟩, h.scheduleFits, fun hv => ?_, h.noErrorNoRecord,
    fun hb => by simp [fetchCommand, hb]⟩
  obtain ⟨hp, hq⟩ := h.constantsHeld hv
  refine ⟨hp, hq, ?_, ?_⟩
  · rw [hp]
    exact magicWord_odd erom_lt h.one_le_w h.w_le
  · rw [hq]
    exact magicWord_odd phiRom_lt h.one_le_w h.w_le

/-- Settles O54: by induction on the agenda, each of whose events leaves the engine idle or busy with a shorter agenda. -/
theorem busyEngineBecomesIdle : Obligations.BusyEngineBecomesIdle := fun _ h hb => h.becomes_idle hb

/-- Settles O43: the engine's turn runs the command in PEND, and withFetchWord places the word and the turn. -/
theorem stepRunsPendingCommand : Obligations.StepRunsPendingCommand := by
  refine fun s i => ⟨fun hb hd => ⟨fun hag => ?_, fun rest hag => ?_⟩, fun nbits w hdw => ?_⟩
  · rw [step_of_nil hag, engineStep_of_decode hb hd]
  · rw [step_of_cons hag]
    exact engineStep_of_decode (s := { s with agenda := rest }) hb hd
  · have hd : decode (commandOfBits nbits w) = .ok i := by
      unfold decodeTableWord at hdw
      split at hdw <;> simp_all
    exact engineStep_of_decode (s := acceptCommand (commandOfBits nbits w) s) rfl hd

/-- Settles O44: the head of the agenda is the access, which reaches the engine inside the aperture only. -/
theorem stepTakesHostAccess : Obligations.StepTakesHostAccess := by
  intro s rest addr size v
  refine ⟨fun hag => ?_, fun hag => ?_, fun hag hb => ?_, fun hag hb => ?_⟩
  · rw [step_of_cons hag]
    exact ⟨fun hlo hhi => congrArg Host.Outcome.next (hostAccess_of_inside (s := { s with agenda := rest }) hlo hhi),
      fun hout => congrArg Host.Outcome.next (hostAccess_of_outside (s := { s with agenda := rest }) hout)⟩
  · rw [step_of_cons hag]
    exact ⟨fun hlo hhi => congrArg Host.Outcome.next (hostAccess_of_inside (s := { s with agenda := rest }) hlo hhi),
      fun hout => congrArg Host.Outcome.next (hostAccess_of_outside (s := { s with agenda := rest }) hout)⟩
  · rw [step_of_nil hag, engineStep_of_idle hb]
  · rw [step_of_cons hag]
    exact engineStep_of_idle (s := { s with agenda := rest }) hb

end Sys2Proof.Proofs
end

section
/-! SUPPORT. The acceptance checks (spec/44_control.md R201): when each command passes and what a failing one records. -/

namespace Sys2Proof.Machine

theorem acceptError_cfg_of_inRange {wb rr : Nat} {s : State} (h1 : 1 ≤ wb) (hwb : wb ≤ s.params.wmaxBytes)
    (hrr : rr ≤ s.params.rmax) : acceptError (.cfg wb rr) s = none :=
  if_neg (by omega)

/-- Check 5 applies to ENC, DEC and RDS. -/
theorem acceptError_of_noSchedule {i : Instr} {s : State} (hi : i.mnemonic ∈ ["ENC", "DEC", "RDS"])
    (hv : s.status.svalid = false) : acceptError i s = some ⟨.noSchedule, encode i⟩ := by
  cases i
  case enc | dec | rds => simp [acceptError, checkRds, checkSchedule, hv]
  all_goals exact absurd hi (by simp [Instr.mnemonic])

theorem acceptError_enc_of_svalid {s : State} (hv : s.status.svalid = true) : acceptError .enc s = none := if_pos hv

theorem acceptError_dec_of_svalid {s : State} (hv : s.status.svalid = true) : acceptError .dec s = none := if_pos hv

theorem acceptError_rds_of_inRange {idx : Nat} {s : State} (hv : s.status.svalid = true) (h : idx < s.t) :
    acceptError (.rds idx) s = none := by
  simp [acceptError, checkRds, checkSchedule, hv, h]

theorem busWrite_cmd_of_busy {s : State} (hb : s.status.busy = true) (c : Word32) :
    busWrite 0x008 .word c s = respond ⟨true, 0⟩ (raiseError ⟨.busy, 0x008⟩ s) := by
  rw [busWrite_cmd]
  simp [presentCommand, hb]

/-- A command word whose write leaves an idle engine busy was accepted. -/
theorem accepted_of_busy {c : Word32} {s : State} (hb : s.status.busy = false)
    (h : (busWrite 0x008 .word c s).status.busy = true) :
    ∃ i, decode c = .ok i ∧ acceptError i s = none ∧
      busWrite 0x008 .word c s = respond ⟨true, 0⟩ (acceptCommand c s) := by
  rw [busWrite_cmd] at h ⊢
  rcases presentCommand_raises_or_accepts c s with ⟨e, hp⟩ | ⟨-, i, hd, ha, hp⟩
  · simp [hp, hb] at h
  · exact ⟨i, hd, ha, by rw [hp]⟩

/-- A word that matches no row of the opcode map does not decode (spec/30_encoding.md R97). -/
theorem decode_error_of_no_row {c : Word32} (h : ∀ r ∈ opcodeTable, r.matchesWord c = false) :
    ∃ e, decode c = .error e := by
  cases hd : decode c with
  | error e => exact ⟨e, rfl⟩
  | ok i =>
    obtain ⟨r, hr, -, hmatch⟩ := exists_row_of_decode hd
    exact absurd (h r hr) (by simp [hmatch])

/-- An accepted command asserts IRQ at completion where DONE_IE is set (spec/60_exceptions.md R239). -/
theorem irq_of_completion {i : Instr} {s t : State} (hie : s.inten.done = true) (ha : acceptError i s = none)
    (h : exec i s = .next t) : irq t = true := by
  cases (exec_accepted ha).symm.trans h
  simp [irq, hie]

/-- The window of a register that holds 0. -/
theorem regByte_zero (p : Params) (k : Nat) : regByte p 0 k = 0 := by simp [regByte, byteOf]

end Sys2Proof.Machine
end

section
/-! PROOFS. Acceptance and the control commands (spec/44_control.md), GENPQ, and the interrupt output. -/

namespace Sys2Proof.Proofs

open Sys2Proof.Machine

/-- Settles O6: the word is busy, undecodable, or the encoding of one command, whose check fails or passes; a write that
leaves BUSY set accepted the word, and the checks do not read what acceptance writes. -/
theorem acceptanceChecksInOrder : Obligations.AcceptanceChecksInOrder := by
  intro s c t rejected accepted
  refine ⟨fun hb => busWrite_cmd_of_busy hb c, fun hb => ?_⟩
  have reject : ∀ i e, c = encode i → i.wellFormed = true → acceptError i s = some e → rejected e.code e.info :=
    fun i e hc hwf he => busWrite_cmd_of_failedCheck hb (hc ▸ decode_encode hwf) he
  have accept : ∀ i, c = encode i → i.wellFormed = true → acceptError i s = none → accepted :=
    fun i hc hwf ha => busWrite_cmd_of_accepted hb (hc ▸ decode_encode hwf) ha
  refine ⟨fun hno => ?illegal, fun wb rr hwb hrr hc => ?cfg, fun hc => ?keysched, fun hc => ?block,
    fun idx hidx hc => ?rds, fun hc => ?unchecked, fun i hd hbusy => ?completes⟩
  case illegal =>
    obtain ⟨e, hd⟩ := decode_error_of_no_row hno
    exact busWrite_cmd_of_undecodable hb hd
  case cfg =>
    have hwf : (Instr.cfg wb rr).wellFormed = true := by simp [Instr.wellFormed, hwb, hrr]
    exact ⟨fun hout => hc ▸ reject _ _ hc hwf (acceptError_cfg_of_outOfRange hout),
      fun h1 hwmax hrmax => accept _ hc hwf (acceptError_cfg_of_inRange h1 hwmax hrmax)⟩
  case keysched =>
    exact ⟨fun hlong => reject _ _ hc rfl (acceptError_keysched_of_long hlong),
      fun hfits => accept _ hc rfl (acceptError_keysched_of_fits hfits)⟩
  case block =>
    rcases hc with hc | hc
    · exact ⟨fun hv => hc ▸ reject _ _ hc rfl (acceptError_of_noSchedule (by decide) hv),
        fun hv => accept _ hc rfl (acceptError_enc_of_svalid hv)⟩
    · exact ⟨fun hv => hc ▸ reject _ _ hc rfl (acceptError_of_noSchedule (by decide) hv),
        fun hv => accept _ hc rfl (acceptError_dec_of_svalid hv)⟩
  case rds =>
    have hwf : (Instr.rds idx).wellFormed = true := by simp [Instr.wellFormed, hidx]
    exact ⟨fun hv => hc ▸ reject _ _ hc hwf (acceptError_of_noSchedule (by simp [Instr.mnemonic]) hv),
      fun hv hout => reject _ _ hc hwf (acceptError_rds_of_outOfRange hv hout),
      fun hv hin => accept _ hc hwf (acceptError_rds_of_inRange hv hin)⟩
  case unchecked =>
    rcases hc with hc | hc | hc | hc <;> exact accept _ hc rfl rfl
  case completes =>
    obtain ⟨i', hd', ha, ht⟩ := accepted_of_busy hb hbusy
    cases hd.symm.trans hd'
    have hat : acceptError i t = none := by
      rw [show t = _ from ht]
      exact (acceptError_congr i rfl rfl rfl rfl).trans ha
    exact ⟨_, exec_accepted hat, rfl, by simp [show t = _ from ht]⟩

/-- Settles O10: a failing check turns the command away, which records the check's error in the idle state. -/
theorem failedChecksTurnCommandsAway : Obligations.FailedChecksTurnCommandsAway := by
  intro s idle
  refine ⟨fun wb rr hout => exec_turnedAway (acceptError_cfg_of_outOfRange hout),
    fun hlong => exec_turnedAway (acceptError_keysched_of_long hlong), fun hv => ⟨?_, ?_, fun idx => ?_⟩,
    fun hv idx hout => exec_turnedAway (acceptError_rds_of_outOfRange hv hout)⟩
  · exact exec_turnedAway (acceptError_of_noSchedule (by decide) hv)
  · exact exec_turnedAway (acceptError_of_noSchedule (by decide) hv)
  · exact exec_turnedAway (acceptError_of_noSchedule (by simp [Instr.mnemonic]) hv)

/-- Settles O11: NOP has no check and no effect. -/
theorem nopCompletes : Obligations.NopCompletes := fun _ => exec_accepted rfl

/-- Settles O12: operands in range of a legal part fit the 8-bit fields they are written to. -/
theorem cfgCompletes : Obligations.CfgCompletes := by
  intro s wb rr hlegal h1 hwb hrr
  obtain ⟨-, hwmax, -, hrmax, -⟩ := hlegal
  have hu : (configure wb rr s).u = wb := by simp [State.u]; omega
  have hr : (configure wb rr s).rounds = rr := by simp [State.rounds]; omega
  exact ⟨_, exec_accepted (acceptError_cfg_of_inRange h1 hwb hrr), congrArg (8 * ·) hu, hu, hr, rfl⟩

/-- Settles O13: the magic words of width w, which fit w bits. -/
theorem genpqCompletes : Obligations.GenpqCompletes := by
  intro s hu1 hu
  have hw1 := one_le_w hu1
  have hw := w_le_of_u_le hu
  exact ⟨_, exec_accepted rfl, toNat_magicWord erom_lt hw1 hw, toNat_magicWord phiRom_lt hw1 hw,
    magicWord_lt erom_lt hw1 hw, magicWord_lt phiRom_lt hw1 hw, rfl⟩

/-- Settles O24: the storage is emptied and both tables are filled with zeros. -/
theorem zeroizeClearsKeyMaterial : Obligations.ZeroizeClearsKeyMaterial := by
  intro s
  have hzero : ∀ n k, entry (List.replicate n 0) k = 0 := fun n k => by
    simp [entry, List.getD_eq_getElem?_getD, List.getElem?_replicate]
    split <;> rfl
  exact ⟨_, exec_accepted rfl, fun _ => rfl, hzero _, hzero _, List.length_replicate, List.length_replicate, rfl⟩

/-- Settles O25: CLRERR has no check, and its effect is the clearing of the record. -/
theorem clrerrClearsErrorRecord : Obligations.ClrerrClearsErrorRecord := fun _ => exec_accepted rfl

/-- Settles O42: the level is the disjunction over the two sources, a write to INTSTAT or INTEN is seen in it at once, a
completion sets DONE_IP and an error ERR_IP. -/
theorem interruptOutputFollowsItsSources : Obligations.InterruptOutputFollowsItsSources := by
  intro s v e
  have hclear : (busWrite 0x01C .word v s).inten = s.inten ∧
      (busWrite 0x01C .word v s).intstat = clearInts s.intstat (intBitsOf v) := ⟨rfl, rfl⟩
  have hset : (busWrite 0x018 .word v s).inten = intBitsOf v ∧ (busWrite 0x018 .word v s).intstat = s.intstat :=
    ⟨rfl, rfl⟩
  refine ⟨rfl, ?_, ?_, ?_, ?_, ?_, ?_, ?_, fun hie i t ha hx => irq_of_completion hie ha hx, ?_, irq_of_disabled⟩
    <;> simp +contextual [irq, hclear, hset, clearInts, intBitsOf]

/-- Settles O46: the constants of the reset state; its storage and its P, Q and SOUT are 0, so every window byte is. -/
theorem resetValues : Obligations.ResetValues := by
  intro p s
  have hwin : ∀ off, windowByte s off = 0 := fun off => by
    unfold windowByte
    split_ifs
    case pos | neg => rfl
    all_goals exact regByte_zero p _
  have hstatus : s.status.value = 0x10040000 := by
    show State.reset.status.value = 0x10040000
    decide
  exact ⟨rfl, rfl, rfl, hstatus, rfl, rfl, rfl, rfl, rfl, rfl, hwin⟩

end Sys2Proof.Proofs
end

section
/-! SUPPORT. Control registers as bit fields, the window bytes by region, and accesses that reach no stored byte
(spec/10_state.md R23 to R36, spec/20_memory.md R61 to R67). -/

namespace Sys2Proof.Machine

/-! ### Fields of a register value -/

theorem getLsbD_of_div_mod {v : Word32} {i : Nat} {b : Bool} (h : v.toNat / 2 ^ i % 2 = b.toNat) : v.getLsbD i = b := by
  rw [BitVec.getLsbD, Nat.testBit_eq_decide_div_mod_eq, h]
  cases b <;> rfl

theorem extractLsb'_of_div_mod {v : Word32} {lo len : Nat} {x : BitVec len} (h : v.toNat / 2 ^ lo % 2 ^ len = x.toNat) :
    v.extractLsb' lo len = x := by
  apply BitVec.eq_of_toNat_eq
  rw [BitVec.extractLsb'_toNat, Nat.shiftRight_eq_div_pow, h]

theorem extractLsb'_eq_zero {v : Word32} {lo len : Nat} (h : v.toNat / 2 ^ lo % 2 ^ len = 0) :
    v.extractLsb' lo len = 0 :=
  extractLsb'_of_div_mod (h.trans (by simp))

theorem IntBits.toNat_value (b : IntBits) : b.value.toNat = b.done.toNat + b.err.toNat * 2 := by
  have := b.done.toNat_le
  have := b.err.toNat_le
  rw [IntBits.value, BitVec.toNat_ofNat]
  omega

theorem IntBits.value_fields (b : IntBits) :
    b.value.getLsbD 0 = b.done ∧ b.value.getLsbD 1 = b.err ∧ b.value.extractLsb' 2 30 = 0 := by
  have hv := b.toNat_value
  have := b.done.toNat_le
  have := b.err.toNat_le
  exact ⟨getLsbD_of_div_mod (by omega), getLsbD_of_div_mod (by omega),
    extractLsb'_eq_zero (by omega)⟩

theorem paramsValue_fields {p : Params} (h : p.Legal) :
    ((paramsValue p).extractLsb' 0 8).toNat = p.wmaxBytes ∧ ((paramsValue p).extractLsb' 8 8).toNat = p.rmax ∧
      (paramsValue p).extractLsb' 16 16 = 0 := by
  obtain ⟨-, hwmax, -, hrmax, -⟩ := h
  have hv : (paramsValue p).toNat = p.wmaxBytes + p.rmax * 256 := by
    rw [paramsValue, BitVec.toNat_ofNat]
    omega
  refine ⟨?_, ?_, extractLsb'_eq_zero (by omega)⟩
  all_goals
    rw [BitVec.extractLsb'_toNat, Nat.shiftRight_eq_div_pow]
    omega

/-! ### Window bytes by region -/

theorem isStored_of_ge {p : Params} (h : p.wmaxBytes ≤ 32) {off : Nat} (hoff : 0x240 ≤ off) :
    isStored p off = false := by
  rw [Bool.eq_false_iff, Ne, isStored_iff]
  omega

theorem windowByte_of_stored {s : State} {off : Nat} (h : isStored s.params off = true) :
    windowByte s off = s.mem.read off := if_pos h

/-- The regions of the windows by offset, after the stored bytes. -/
theorem windowByte_of_not_stored {s : State} {off : Nat} (h : isStored s.params off = false) :
    windowByte s off =
      if 0x240 ≤ off ∧ off < 0x260 then regByte s.params s.p (off - 0x240)
      else if 0x260 ≤ off ∧ off < 0x280 then regByte s.params s.q (off - 0x260)
      else if 0x280 ≤ off ∧ off < 0x2A0 then regByte s.params s.sout (off - 0x280)
      else 0 :=
  if_neg (by simp [h])

/-- A byte that is neither stored nor of P, Q or SOUT. -/
theorem windowByte_of_reserved {s : State} {off : Nat} (hst : isStored s.params off = false)
    (hres : isResult off = false) : windowByte s off = 0 := by
  have hout : ¬(0x240 ≤ off ∧ off < 0x2A0) := fun h => absurd ((isResult_iff off).mpr h) (by simp [hres])
  rw [windowByte_of_not_stored hst, if_neg (by omega), if_neg (by omega), if_neg (by omega)]

section
variable {s : State} (hw : s.params.wmaxBytes ≤ 32) {k : Nat} (hk : k < 32)
include hw hk

theorem windowByte_p : windowByte s (0x240 + k) = regByte s.params s.p k := by
  rw [windowByte_of_not_stored (isStored_of_ge hw (by omega)), if_pos (by omega), Nat.add_sub_cancel_left]

theorem windowByte_q : windowByte s (0x260 + k) = regByte s.params s.q k := by
  rw [windowByte_of_not_stored (isStored_of_ge hw (by omega)), if_neg (by omega), if_pos (by omega),
    Nat.add_sub_cancel_left]

theorem windowByte_sout : windowByte s (0x280 + k) = regByte s.params s.sout k := by
  rw [windowByte_of_not_stored (isStored_of_ge hw (by omega)), if_neg (by omega), if_neg (by omega),
    if_pos (by omega), Nat.add_sub_cancel_left]

end

theorem regByte_eq (p : Params) (r : Word) (k : Nat) :
    regByte p r k = if k < p.wmaxBytes then r.extractLsb' (8 * k) 8 else 0 := by
  rw [regByte, byteOf_toNat]

/-! ### Accesses to control registers and to bytes that are not stored -/

theorem busRead_of_control {off : Nat} (ha : off % 4 = 0) (ho : off < 0x020) (s : State) :
    busRead off .word s = respond (okResp (readControl off s)) s := by
  have hok : isBusError off .word = false := by simp [isBusError, AccessSize.bytes, ha]
  rw [busRead, hok, if_neg (by decide), if_pos (show off < controlEnd from ho)]

theorem writeWindow_of_untouched {s : State} {off n : Nat} (h : ∀ k < n, isStored s.params (off + k) = false)
    (v : Word32) : writeWindow off n v s = s := by
  have hno : touchesStored s.params off n = false := by simpa [touchesStored] using h
  simp only [writeWindow, hno, Bool.and_false, storeBytes_of_untouched s.mem hno _ (length_toLE n _).le]
  rfl

theorem busWrite_of_untouched {s : State} {off : Nat} {size : AccessSize} (ha : off % size.bytes = 0)
    (ho : 0x020 ≤ off) (h : ∀ k < size.bytes, isStored s.params (off + k) = false) (v : Word32) :
    busWrite off size v s = { s with resp := some ⟨true, 0⟩ } := by
  rw [busWrite_of_aligned ha ho, writeWindow_of_untouched h]
  rfl

/-- A word write to a control register that has no effect (spec/20_memory.md R67). -/
theorem busWrite_of_readOnlyControl {off : Nat} (h : off ∈ [0x000, 0x004, 0x00C, 0x014]) (v : Word32) (s : State) :
    busWrite off .word v s = { s with resp := some ⟨true, 0⟩ } := by
  simp only [List.mem_cons, List.not_mem_nil, or_false] at h
  rcases h with rfl | rfl | rfl | rfl <;> rfl

theorem readByte_of_reserved {s : State} {off k : Nat} (hst : isStored s.params (off + k) = false)
    (hres : isResult (off + k) = false) : readByte s off k = 0 := by
  simp [readByte, isFreeWhileBusy, hst, hres, windowByte_of_reserved hst hres]

theorem readData_eq_zero {s : State} {off n : Nat} (hn : n ≤ 4) (h : ∀ k < n, readByte s off k = 0) :
    readData s off n = 0 := by
  apply BitVec.eq_of_toNat_eq
  rw [toNat_readData s off hn]
  exact Finset.sum_eq_zero fun k hk => by simp [h k (Finset.mem_range.mp hk)]

/-- Byte k of a little-endian value is byte k of the string. -/
theorem byteOf_leVal {bs : List Byte} {k : Nat} (hk : k < bs.length) : byteOf (leVal bs) k = bs[k] := by
  have h := getElem_toLE bs.length (leVal bs) k (by simpa using hk)
  simp only [toLE_leVal] at h
  exact h.symm

theorem extractLsb'_readData {s : State} {off n k : Nat} (hn : n ≤ 4) (hk : k < n) :
    (readData s off n).extractLsb' (8 * k) 8 = readByte s off k := by
  have hlt := leVal_lt ((List.range n).map (readByte s off))
  rw [List.length_map, List.length_range] at hlt
  have hd : (readData s off n).toNat = leVal ((List.range n).map (readByte s off)) := by
    rw [toNat_readData s off hn, leVal_map_range]
  rw [← byteOf_toNat_word32, hd, byteOf_leVal (by simpa using hk)]
  simp

end Sys2Proof.Machine
end

section
/-! PROOFS. The bus (spec/20_memory.md): registers, windows, accesses without effect, and accesses while busy
(spec/70_reset_and_hazards.md R280, R281). -/

namespace Sys2Proof.Proofs

open Sys2Proof.Machine

/-- Settles O33: no read changes more than the response, and only a busy read above the control registers draws bytes. -/
theorem readsHaveNoSideEffects : Obligations.ReadsHaveNoSideEffects := by
  intro s off size
  unfold busRead
  split
  · exact ⟨_, s.draws, le_rfl, rfl, fun _ => rfl⟩
  · split
    · exact ⟨_, s.draws, le_rfl, rfl, fun _ => rfl⟩
    · refine ⟨_, _, ?_, rfl, fun hb => by simp [hb]⟩
      split
      · exact Nat.le_add_right _ _
      · exact le_rfl

/-- Settles O34: each field of STATUS by its place in the number STATUS reads as. -/
theorem statusReadLayout : Obligations.StatusReadLayout := by
  intro s
  have hv := s.status.toNat_value
  have := s.status.cfgWB.isLt
  have := s.status.cfgR.isLt
  have := s.status.ecode.number_le
  have := s.status.busy.toNat_le
  have := s.status.svalid.toNat_le
  have := s.status.pqvalid.toNat_le
  have := s.status.err.toNat_le
  have := s.status.errovf.toNat_le
  have hcode : s.status.value.extractLsb' 8 4 = BitVec.ofNat 4 s.status.ecode.number :=
    extractLsb'_of_div_mod (by rw [BitVec.toNat_ofNat]; omega)
  refine ⟨s.status.value, rfl, getLsbD_of_div_mod (by omega), getLsbD_of_div_mod (by omega),
    getLsbD_of_div_mod (by omega), getLsbD_of_div_mod (by omega), getLsbD_of_div_mod (by omega),
    extractLsb'_eq_zero (by omega), hcode,
    extractLsb'_eq_zero (by omega), extractLsb'_of_div_mod (by omega),
    extractLsb'_of_div_mod (by omega), ?_, ?_, ?_, ?_, ?_, ?_, ?_⟩
  all_goals
    intro h
    rw [hcode, h]
    rfl

/-- Settles O35: each read is its register's value, whose fields are their places in a number. -/
theorem controlRegisterReads : Obligations.ControlRegisterReads := fun s hlegal =>
  ⟨rfl, ⟨_, rfl, paramsValue_fields hlegal⟩, rfl, rfl, rfl, ⟨_, rfl, s.inten.value_fields⟩,
    ⟨_, rfl, s.intstat.value_fields⟩⟩

/-- Settles O36: the low 16 bits of the data are its first bit field; the other two writes are their definitions. -/
theorem controlRegisterWrites : Obligations.ControlRegisterWrites := by
  refine fun s v => ⟨fun hb => ?_, rfl, rfl⟩
  have hw : busWrite 0x010 .word v s = respond ⟨true, 0⟩ { s with keylen := v.setWidth 16 } := by
    simp [busWrite, isBusError, AccessSize.bytes, controlEnd, writeControl, hb, okResp]
  rw [hw, BitVec.setWidth_eq_extractLsb' (by decide)]
  rfl

/-- Settles O37: each offset by its region. -/
theorem windowBytes : Obligations.WindowBytes := by
  intro s hlegal
  have hw : s.params.wmaxBytes ≤ 32 := hlegal.2.1
  have hreserved : ∀ off, off < 0x100 ∨ (0x200 + 2 * s.params.wmaxBytes ≤ off ∧ off < 0x240) ∨ 0x2A0 ≤ off →
      windowByte s off = 0 := fun off hoff => by
    refine windowByte_of_reserved ?_ ?_
    · rw [Bool.eq_false_iff, Ne, isStored_iff]
      omega
    · rw [Bool.eq_false_iff, Ne, isResult_iff]
      omega
  refine ⟨fun k hk => ?_, fun k hk => ?_, fun k hk => ?_, fun k hk => ?_, fun k hk => ?_, fun off hoff => ?_⟩
  · exact windowByte_of_stored ((isStored_iff ..).mpr (.inl (by omega)))
  · split
    · exact windowByte_of_stored ((isStored_iff ..).mpr (.inr (by omega)))
    · exact hreserved _ (by omega)
  · rw [windowByte_p hw hk, regByte_eq]
  · rw [windowByte_q hw hk, regByte_eq]
  · rw [windowByte_sout hw hk, regByte_eq]
  · exact hreserved off (by omega)

/-- Settles O39: such a write reaches no register that it can change and no stored byte; such a read collects zeros. -/
theorem reservedAndReadOnlyIgnoreWrites : Obligations.ReservedAndReadOnlyIgnoreWrites := by
  intro s off size v _ ha hword
  refine ⟨?_, fun ⟨ho, hfree⟩ => ?_, fun hcmd => ?_⟩
  · rintro (hro | ⟨ho, hfree⟩)
    · have hlow : off < 0x020 := by simp at hro; omega
      rw [hword hlow]
      exact busWrite_of_readOnlyControl hro v s
    · exact busWrite_of_untouched ha ho hfree v
  · have hzero : readData s off size.bytes = 0 := readData_eq_zero size.bytes_le fun k hk =>
      readByte_of_reserved (hfree k hk).1 (hfree k hk).2
    rw [busRead_of_aligned ha ho, hzero]
    rfl
  · subst hcmd
    rw [hword (by decide)]
    rfl

/-- Settles O40: by the offset: CMD, KEYLEN, or a write that reaches storage; INTEN; INTSTAT; and the rest. -/
theorem busyWritesAreIgnored : Obligations.BusyWritesAreIgnored := by
  intro s off size v hb ha hword
  refine ⟨?_, fun ho => ?_, fun ho => ?_, fun hno hfree => ?_⟩
  · rintro (rfl | rfl | ⟨k, hk, hst⟩)
    · rw [hword (by decide)]
      exact busWrite_cmd_of_busy hb v
    · rw [hword (by decide)]
      simp [busWrite, isBusError, AccessSize.bytes, controlEnd, writeControl, hb, okResp]
    · have ho : 0x020 ≤ off := by
        have := (isStored_iff ..).mp hst
        have := size.bytes_le
        omega
      have htouch : touchesStored s.params off size.bytes = true := (touchesStored_iff ..).mpr ⟨k, hk, hst⟩
      rw [busWrite_of_aligned ha ho, writeWindow, hb, htouch]
      rfl
  · subst ho
    rw [hword (by decide)]
    rfl
  · subst ho
    rw [hword (by decide)]
    rfl
  · by_cases ho : off < 0x020
    · have hsize := hword ho
      subst hsize
      refine busWrite_of_readOnlyControl ?_ v s
      simp [AccessSize.bytes] at ha hno ⊢
      omega
    · exact busWrite_of_untouched ha (Nat.not_lt.mp ho) hfree v

/-- Settles O41: a control read is idle's; above, each byte read is free or a reserved 0, and the counter moves on by the
size. -/
theorem busyWindowReadsAreFree : Obligations.BusyWindowReadsAreFree := by
  intro s off size hb _ ha hword
  refine ⟨fun ho => ?_, fun ho => ?_⟩
  · rw [hword ho] at ha ⊢
    rw [busRead_of_control ha ho]
    rfl
  · rw [busRead_of_aligned ha ho]
    refine ⟨_, rfl, by simp [hb], fun k hk => ?_⟩
    rw [extractLsb'_readData size.bytes_le hk]
    split
    case isTrue hfree => simp [readByte, hb, isFreeWhileBusy, hfree]
    case isFalse hfree =>
      simp only [not_or, Bool.not_eq_true] at hfree
      exact readByte_of_reserved hfree.1 hfree.2

end Sys2Proof.Proofs
end

section
/-! SUPPORT. The rotations bit by bit (spec/40_datapath.md R124, R125), the laws of the word operations (R132), and the codec's
inverse laws (R129). -/

namespace Sys2Proof.Machine

/-! ### Bits of a rotation -/

/-- Taking y from M undoes adding y modulo M, for any y. -/
theorem add_complement_mod {x M : Nat} (hx : x < M) (y : Nat) : (x + y + (M - y % M)) % M = x := by
  have hy : y % M < M := Nat.mod_lt y (by omega)
  have hsum : x + y + (M - y % M) = x + M * (y / M + 1) := by
    have := Nat.mod_add_div y M
    rw [Nat.mul_succ]
    omega
  rw [hsum, Nat.add_mul_mod_self_left, Nat.mod_eq_of_lt hx]

/-- Words of w bits are equal when their low w bits are. -/
theorem word_ext {w : Nat} {x y : Word} (hx : x.toNat < 2 ^ w) (hy : y.toNat < 2 ^ w)
    (h : ∀ k < w, x.getLsbD k = y.getLsbD k) : x = y := by
  refine BitVec.eq_of_toNat_eq (Nat.eq_of_testBit_eq fun k => ?_)
  by_cases hk : k < w
  · exact h k hk
  · have hle : 2 ^ w ≤ 2 ^ k := Nat.pow_le_pow_right (by decide) (Nat.not_lt.mp hk)
    rw [Nat.testBit_lt_two_pow (hx.trans_le hle), Nat.testBit_lt_two_pow (hy.trans_le hle)]

section
variable {w : Nat} (hw : w ≤ 256)
include hw

/-- Bit k of a right rotation is bit (k + n) mod w. -/
theorem getLsbD_rotrW {x : Word} (hx : x.toNat < 2 ^ w) (n : Nat) {k : Nat} (hk : k < w) :
    (rotrW w x n).getLsbD k = x.getLsbD ((k + n) % w) := by
  have hr : n % w < w := Nat.mod_lt n (by omega)
  rw [Nat.add_mod, Nat.mod_eq_of_lt hk]
  by_cases hn : n % w = 0
  · rw [rotrW_of_mod_eq_zero hn, hn, Nat.add_zero, Nat.mod_eq_of_lt hk]
  · simp only [BitVec.getLsbD, toNat_rotrW hw hn, Nat.testBit_mod_two_pow, Nat.testBit_or, Nat.testBit_shiftRight,
      Nat.testBit_shiftLeft, hk, decide_true, Bool.true_and]
    generalize n % w = r at hr hn
    by_cases hwrap : k + r < w
    · rw [Nat.mod_eq_of_lt hwrap, decide_eq_false (by omega), Bool.false_and, Bool.or_false, Nat.add_comm]
    · rw [Nat.testBit_lt_two_pow (hx.trans_le (Nat.pow_le_pow_right (by decide) (by omega))), Bool.false_or,
        decide_eq_true (by omega), Bool.true_and, Nat.mod_eq_sub_mod (by omega), Nat.mod_eq_of_lt (by omega)]
      congr 1
      omega

/-- Bit (k + n) mod w of a left rotation is bit k. -/
theorem getLsbD_rotlW {x : Word} (hx : x.toNat < 2 ^ w) (n : Nat) {k : Nat} (hk : k < w) :
    (rotlW w x n).getLsbD ((k + n) % w) = x.getLsbD k := by
  have hr : n % w < w := Nat.mod_lt n (by omega)
  have hlt : (k + n) % w < w := Nat.mod_lt _ (by omega)
  by_cases hn : n % w = 0
  · rw [rotlW_of_mod_eq_zero hn, Nat.add_mod, hn, Nat.add_zero, Nat.mod_mod, Nat.mod_eq_of_lt hk]
  · simp only [BitVec.getLsbD, toNat_rotlW hw hn, Nat.testBit_mod_two_pow, Nat.testBit_or, Nat.testBit_shiftRight,
      Nat.testBit_shiftLeft, hlt, decide_true, Bool.true_and]
    rw [Nat.add_mod, Nat.mod_eq_of_lt hk]
    generalize n % w = r at hr hn
    by_cases hwrap : k + r < w
    · rw [Nat.mod_eq_of_lt hwrap, decide_eq_true (by omega), Bool.true_and, Nat.add_sub_cancel,
        Nat.testBit_lt_two_pow (i := w - r + (k + r))
          (hx.trans_le (Nat.pow_le_pow_right (by decide) (by omega))), Bool.or_false]
    · rw [Nat.mod_eq_sub_mod (by omega), Nat.mod_eq_of_lt (by omega), decide_eq_false (by omega), Bool.false_and,
        Bool.false_or]
      congr 1
      omega

/-- Words of w bits are equal when their bits are, numbered from n on, modulo w. -/
theorem word_ext_rotated {x y : Word} (hx : x.toNat < 2 ^ w) (hy : y.toNat < 2 ^ w) (n : Nat)
    (h : ∀ k < w, x.getLsbD ((k + n) % w) = y.getLsbD ((k + n) % w)) : x = y := by
  refine word_ext hx hy fun j hj => ?_
  have hr : n % w < w := Nat.mod_lt n (by omega)
  have hj' : ((j + (w - n % w)) % w + n) % w = j := by
    rw [Nat.mod_add_mod, ← Nat.add_mod_mod, show j + (w - n % w) + n % w = j + w by omega, Nat.add_mod_right,
      Nat.mod_eq_of_lt hj]
  simpa only [hj'] using h _ (Nat.mod_lt (j + (w - n % w)) (by omega))

/-! ### The laws (R132) -/

theorem subW_addW {x : Word} (hx : x.toNat < 2 ^ w) (y : Word) : subW w (addW w x y) y = x := by
  apply BitVec.eq_of_toNat_eq
  rw [toNat_subW hw, toNat_addW hw, Nat.mod_add_mod, add_complement_mod hx]

theorem addW_subW {x : Word} (hx : x.toNat < 2 ^ w) (y : Word) : addW w (subW w x y) y = x := by
  apply BitVec.eq_of_toNat_eq
  rw [toNat_addW hw, toNat_subW hw, Nat.mod_add_mod, Nat.add_right_comm, add_complement_mod hx]

theorem rotrW_rotlW {x : Word} (hx : x.toNat < 2 ^ w) (n : Nat) : rotrW w (rotlW w x n) n = x :=
  have hl := rotlW_lt hw hx n
  word_ext (rotrW_lt hw hl n) hx fun _ hk => (getLsbD_rotrW hw hl n hk).trans (getLsbD_rotlW hw hx n hk)

theorem rotlW_rotrW {x : Word} (hx : x.toNat < 2 ^ w) (n : Nat) : rotlW w (rotrW w x n) n = x :=
  have hr := rotrW_lt hw hx n
  word_ext_rotated hw (rotlW_lt hw hr n) hx n fun _ hk => (getLsbD_rotlW hw hr n hk).trans (getLsbD_rotrW hw hx n hk)

theorem rotlW_rotlW {x : Word} (hx : x.toNat < 2 ^ w) (m n : Nat) : rotlW w (rotlW w x m) n = rotlW w x (m + n) := by
  have hm := rotlW_lt hw hx m
  refine word_ext_rotated hw (rotlW_lt hw hm n) (rotlW_lt hw hx _) (m + n) fun k hk => ?_
  rw [getLsbD_rotlW hw hx (m + n) hk, ← getLsbD_rotlW hw hx m hk,
    ← getLsbD_rotlW hw hm n (Nat.mod_lt (k + m) (by omega)), Nat.mod_add_mod, Nat.add_assoc]

end

theorem xorW_xorW (x y : Word) : xorW (xorW x y) y = x := by
  rw [xorW, xorW, BitVec.xor_assoc, BitVec.xor_self, BitVec.xor_zero]

theorem rotlW_mod (w : Nat) (x : Word) (n : Nat) : rotlW w x n = rotlW w x (n % w) := by
  rw [rotlW, rotlW, Nat.mod_mod]

/-! ### The codec (R129) -/

theorem wordOfBytes_bytesOfWord {u : Nat} (hu : u ≤ 32) {x : Word} (hx : x.toNat < 2 ^ (8 * u)) :
    wordOfBytes (bytesOfWord u x) = x := by
  apply BitVec.eq_of_toNat_eq
  rw [toNat_wordOfBytes (by simpa using hu), bytesOfWord, leVal_toLE, Nat.mod_eq_of_lt hx]

theorem bytesOfWord_wordOfBytes {u : Nat} (hu : u ≤ 32) {z : List Byte} (hz : z.length = u) :
    bytesOfWord u (wordOfBytes z) = z := by
  rw [bytesOfWord, toNat_wordOfBytes (hz.trans_le hu), ← hz, toLE_leVal]

theorem getElem?_bytesOfWord {u k : Nat} (hk : k < u) (x : Word) :
    (bytesOfWord u x)[k]? = some (x.extractLsb' (8 * k) 8) := by
  rw [← byteOf_toNat]
  simp [bytesOfWord, toLE, hk]

/-! ### The block as one little-endian value (R130) -/

theorem Memory.readBytes_add (m : Memory) (a n n' : Nat) :
    m.readBytes a (n + n') = m.readBytes a n ++ m.readBytes (a + n) n' := by
  simp [Memory.readBytes, List.range_add, Nat.add_assoc]

/-- The value of BLK[0..2u-1] holds A in its low w bits and B above them. -/
theorem leVal_block {s : State} (hu : s.u ≤ 32) :
    ∑ k ∈ Finset.range (2 * s.u), (s.mem.read (0x200 + k)).toNat * 2 ^ (8 * k) =
      (blkA s).toNat + 2 ^ s.w * (blkB s).toNat := by
  have hsplit : s.mem.readBytes 0x200 (2 * s.u) =
      s.mem.readBytes blkBase s.u ++ s.mem.readBytes (blkBase + s.u) s.u := by
    rw [Nat.two_mul]
    exact Memory.readBytes_add s.mem blkBase s.u s.u
  rw [blkA, blkB, toNat_wordOfBytes (by simpa using hu), toNat_wordOfBytes (by simpa using hu),
    ← leVal_map_range fun k => s.mem.read (0x200 + k)]
  change leVal (s.mem.readBytes 0x200 (2 * s.u)) = _
  rw [hsplit, leVal_append, Memory.length_readBytes, State.w]

end Sys2Proof.Machine
end

section
/-! PROOFS. The datapath and the codec (spec/40_datapath.md). -/

namespace Sys2Proof.Proofs

open Sys2Proof.Machine

/-- Settles O28: sums by arithmetic modulo `2^w`, rotations bit by bit. -/
theorem datapathLaws : Obligations.DatapathLaws := by
  intro w x y m n _ hw hx _
  exact ⟨subW_addW hw hx y, addW_subW hw hx y, rotrW_rotlW hw hx n, rotlW_rotrW hw hx n, xorW_xorW x y,
    rotlW_mod w x n, rotlW_rotlW hw hx m n⟩

/-- Settles O29: the bits of both rotations, which stay below `2^w`. -/
theorem rotationMovesBits : Obligations.RotationMovesBits := fun _ _ n _ _ hw hx hk =>
  ⟨getLsbD_rotlW hw hx n hk, getLsbD_rotrW hw hx n hk, rotlW_lt hw hx n, rotrW_lt hw hx n⟩

/-- Settles O30: the codec's bytes are the word's bit fields, and a little-endian value determines its string. -/
theorem codecRoundTrip : Obligations.CodecRoundTrip := fun u hu =>
  ⟨fun x hx => ⟨length_bytesOfWord u x, fun _ hk => getElem?_bytesOfWord hk x, wordOfBytes_bytesOfWord hu hx⟩,
    fun _ hz => bytesOfWord_wordOfBytes hu hz⟩

/-- Settles O31: V is A plus B times `2^w`, and A is below `2^w`. -/
theorem blockSplitsIntoHalves : Obligations.BlockSplitsIntoHalves := by
  intro s hu V
  have hA := blkA_lt hu
  have hV : V = (blkA s).toNat + 2 ^ s.w * (blkB s).toNat := leVal_block hu
  rw [hV]
  exact ⟨by rw [Nat.add_mul_mod_self_left, Nat.mod_eq_of_lt hA],
    by rw [Nat.add_mul_div_left _ _ (Nat.two_pow_pos _), Nat.div_eq_of_lt hA, Nat.zero_add]⟩

end Sys2Proof.Proofs
end

section
/-! SUPPORT. The block in the storage (spec/40_datapath.md R130, R131), and the rounds: each direction undoes the other
(spec/43_round.md R188). -/

namespace Sys2Proof.Machine

/-! ### The block in the storage -/

/-- Writing the block back changes the bytes of BLK[0..2u-1] and no other. -/
theorem read_withBlock {s : State} (h : s.mem.wf = true) (a b : Word) (x : Nat) :
    (withBlock s a b).read x =
      if 0x200 ≤ x ∧ x < 0x200 + s.u then byteOf a.toNat (x - 0x200)
      else if 0x200 + s.u ≤ x ∧ x < 0x200 + 2 * s.u then byteOf b.toNat (x - (0x200 + s.u))
      else s.mem.read x := by
  rw [withBlock, Memory.read_writeBytes (Memory.wf_writeBytes h _ _), Memory.read_writeBytes h]
  simp only [length_bytesOfWord, show blkBase = 0x200 from rfl]
  by_cases hlow : 0x200 ≤ x ∧ x < 0x200 + s.u
  · rw [if_neg (by omega), if_pos hlow, if_pos hlow]
    exact getD_toLE (by omega) _
  · rw [if_neg hlow, if_neg hlow]
    by_cases hhigh : 0x200 + s.u ≤ x ∧ x < 0x200 + 2 * s.u
    · rw [if_pos (by omega), if_pos hhigh]
      exact getD_toLE (by omega) _
    · rw [if_neg (by omega), if_neg hhigh]

theorem read_withBlock_of_outside {s : State} (h : s.mem.wf = true) (a b : Word) {x : Nat}
    (hx : x < 0x200 ∨ 0x200 + 2 * s.u ≤ x) : (withBlock s a b).read x = s.mem.read x := by
  rw [read_withBlock h, if_neg (by omega), if_neg (by omega)]

section
variable {s : State} (hu : s.u ≤ 32)
include hu

theorem byteOf_blkA {k : Nat} (hk : k < s.u) : byteOf (blkA s).toNat k = s.mem.read (0x200 + k) := by
  rw [blkA, toNat_wordOfBytes (by simpa using hu), byteOf_leVal (by simpa using hk)]
  simp [Memory.readBytes, blkBase]

theorem byteOf_blkB {k : Nat} (hk : k < s.u) : byteOf (blkB s).toNat k = s.mem.read (0x200 + s.u + k) := by
  rw [blkB, toNat_wordOfBytes (by simpa using hu), byteOf_leVal (by simpa using hk)]
  simp [Memory.readBytes, blkBase]

/-- The words read back are the words written (spec/40_datapath.md R129 to R131). -/
theorem blk_of_withBlock (hwf : s.mem.wf = true) {t : State} {a b : Word} (ha : a.toNat < 2 ^ s.w)
    (hb : b.toNat < 2 ^ s.w) (htu : t.u = s.u) (hmem : t.mem = withBlock s a b) : blkA t = a ∧ blkB t = b := by
  have hlow : t.mem.readBytes blkBase t.u = bytesOfWord s.u a := by
    rw [hmem, htu]
    refine List.map_congr_left fun k hk => ?_
    have hk := List.mem_range.mp hk
    rw [blkBase, read_withBlock hwf, if_pos (by omega), Nat.add_sub_cancel_left]
  have hhigh : t.mem.readBytes (blkBase + t.u) t.u = bytesOfWord s.u b := by
    rw [hmem, htu]
    refine List.map_congr_left fun k hk => ?_
    have hk := List.mem_range.mp hk
    rw [blkBase, read_withBlock hwf, if_neg (by omega), if_pos (by omega), Nat.add_sub_cancel_left]
  exact ⟨by rw [blkA, hlow, wordOfBytes_bytesOfWord hu ha], by rw [blkB, hhigh, wordOfBytes_bytesOfWord hu hb]⟩

/-- A block replaced and then put back leaves every byte as it was. -/
theorem read_withBlock_restored (hwf : s.mem.wf = true) {t : State} {a b : Word} (htu : t.u = s.u)
    (hmem : t.mem = withBlock s a b) (x : Nat) : (withBlock t (blkA s) (blkB s)).read x = s.mem.read x := by
  have htwf : t.mem.wf = true := hmem ▸ withBlock_wf hwf a b
  rw [read_withBlock htwf, htu]
  split_ifs with hlow hhigh
  · rw [byteOf_blkA hu (by omega), Nat.add_sub_cancel' hlow.1]
  · rw [byteOf_blkB hu (by omega), Nat.add_sub_cancel' hhigh.1]
  · rw [hmem, read_withBlock_of_outside hwf a b (by omega)]

end

/-! ### The rounds -/

/-- Both words of a block are w-bit words. -/
def BlockFits (w : Nat) (ab : Block) : Prop := ab.1.toNat < 2 ^ w ∧ ab.2.toNat < 2 ^ w

section
variable {w : Nat} (hw : w ≤ 256) (tab : List Word)
include hw

theorem encRound_fits (i : Nat) (ab : Block) : BlockFits w (encRound w tab i ab) := ⟨addW_lt hw _ _, addW_lt hw _ _⟩

theorem decRound_fits (i : Nat) {ab : Block} (h : BlockFits w ab) : BlockFits w (decRound w tab i ab) := by
  have hb : (decRound w tab i ab).2.toNat < 2 ^ w := xorW_lt (rotrW_lt hw (subW_lt hw _ _) _) h.1
  exact ⟨xorW_lt (rotrW_lt hw (subW_lt hw _ _) _) hb, hb⟩

theorem decRound_encRound (i : Nat) {ab : Block} (h : BlockFits w ab) :
    decRound w tab i (encRound w tab i ab) = ab := by
  obtain ⟨a, b⟩ := ab
  obtain ⟨ha, hb⟩ := h
  have ha' := (encRound_fits hw tab i (a, b)).1
  simp only [encRound] at ha' ⊢
  simp only [decRound, subW_addW hw (rotlW_lt hw (xorW_lt hb ha') _), rotrW_rotlW hw (xorW_lt hb ha'), xorW_xorW,
    subW_addW hw (rotlW_lt hw (xorW_lt ha hb) _), rotrW_rotlW hw (xorW_lt ha hb)]

theorem encRound_decRound (i : Nat) {ab : Block} (h : BlockFits w ab) :
    encRound w tab i (decRound w tab i ab) = ab := by
  obtain ⟨a, b⟩ := ab
  obtain ⟨ha, hb⟩ := h
  simp only [encRound, decRound, xorW_xorW, rotlW_rotrW hw (subW_lt hw _ _), addW_subW hw ha, addW_subW hw hb]

theorem decRounds_encRounds (r : Nat) {ab : Block} (h : BlockFits w ab) :
    decRounds w tab r (encRounds w tab r ab) = ab := by
  induction r with
  | zero => rfl
  | succ r ih =>
    rw [encRounds, decRounds, decRound_encRound hw tab _ (encRounds_lt hw tab h r), ih]

theorem encRounds_decRounds (r : Nat) {ab : Block} (h : BlockFits w ab) :
    encRounds w tab r (decRounds w tab r ab) = ab := by
  induction r generalizing ab with
  | zero => rfl
  | succ r ih =>
    rw [decRounds, encRounds, ih (decRound_fits hw tab _ h), encRound_decRound hw tab _ h]

theorem decRounds_fits (r : Nat) {ab : Block} (h : BlockFits w ab) : BlockFits w (decRounds w tab r ab) := by
  induction r generalizing ab with
  | zero => exact h
  | succ r ih => exact ih (decRound_fits hw tab _ h)

/-- DEC undoes ENC on the block, whatever the table holds (R188). -/
theorem decryptBlock_encryptBlock (r : Nat) {ab : Block} (h : BlockFits w ab) :
    decryptBlock w tab r (encryptBlock w tab r ab) = ab := by
  rw [decryptBlock, encryptBlock, decRounds_encRounds hw tab r ⟨addW_lt hw _ _, addW_lt hw _ _⟩]
  simp only [subW_addW hw h.1, subW_addW hw h.2]

/-- ENC undoes DEC on the block (R188). -/
theorem encryptBlock_decryptBlock (r : Nat) {ab : Block} (h : BlockFits w ab) :
    encryptBlock w tab r (decryptBlock w tab r ab) = ab := by
  have hfits := decRounds_fits hw tab r h
  simp only [encryptBlock, decryptBlock, addW_subW hw hfits.1, addW_subW hw hfits.2, Prod.mk.eta]
  exact encRounds_decRounds hw tab r h

end

/-- The block with the n rounds r down to r - n + 1 undone (spec/43_round.md R184). -/
def undoneRounds (w : Nat) (tab : List Word) (r : Nat) (ab : Block) : Nat → Block
  | 0 => ab
  | n + 1 => decRound w tab (r - n) (undoneRounds w tab r ab n)

theorem decRounds_undoneRounds (w : Nat) (tab : List Word) (r : Nat) (ab : Block) {i : Nat} (hi : i ≤ r) :
    decRounds w tab i (undoneRounds w tab r ab (r - i)) = undoneRounds w tab r ab r := by
  induction i with
  | zero => rfl
  | succ i ih =>
    rw [← ih (by omega), decRounds, show r - i = r - (i + 1) + 1 by omega, undoneRounds,
      show r - (r - (i + 1)) = i + 1 by omega]

/-- The block with the rounds r down to i + 1 undone: the words A i, B i of DEC (R184). -/
def blockBefore (w : Nat) (tab : List Word) (r : Nat) (ab : Block) (i : Nat) : Block :=
  undoneRounds w tab r ab (r - i)

theorem blockBefore_self (w : Nat) (tab : List Word) (r : Nat) (ab : Block) : blockBefore w tab r ab r = ab := by
  rw [blockBefore, Nat.sub_self, undoneRounds]

theorem blockBefore_of_lt (w : Nat) (tab : List Word) {r i : Nat} (ab : Block) (hi : i < r) :
    blockBefore w tab r ab i = decRound w tab (i + 1) (blockBefore w tab r ab (i + 1)) := by
  rw [blockBefore, show r - i = r - (i + 1) + 1 by omega, undoneRounds, show r - (r - (i + 1)) = i + 1 by omega]
  rfl

theorem decRounds_eq_blockBefore (w : Nat) (tab : List Word) (r : Nat) (ab : Block) :
    decRounds w tab r ab = blockBefore w tab r ab 0 := by
  simpa [undoneRounds, blockBefore] using decRounds_undoneRounds w tab r ab le_rfl

/-! ### The commands -/

theorem blk_fits {s : State} (hu : s.u ≤ 32) : BlockFits s.w (blkA s, blkB s) := ⟨blkA_lt hu, blkB_lt hu⟩

/-- The block after a completion that writes back a block of w-bit words. -/
theorem blk_finish_storeBlock {s : State} (hu : s.u ≤ 32) (hwf : s.mem.wf = true) {ab : Block}
    (h : BlockFits s.w ab) :
    blkA (finishCommand (storeBlock ab s)) = ab.1 ∧ blkB (finishCommand (storeBlock ab s)) = ab.2 :=
  blk_of_withBlock hu hwf h.1 h.2 rfl rfl

/-- A second command that maps the block written by the first to the block before it restores the storage. -/
theorem read_storeBlock_undone {s : State} (hu : s.u ≤ 32) (hwf : s.mem.wf = true) {ab : Block}
    (h : BlockFits s.w ab) (undo : Block → Block) (hundo : undo ab = (blkA s, blkB s)) (x : Nat) :
    (finishCommand (storeBlock
      (undo (blkA (finishCommand (storeBlock ab s)), blkB (finishCommand (storeBlock ab s))))
      (finishCommand (storeBlock ab s)))).mem.read x = s.mem.read x := by
  obtain ⟨hA, hB⟩ := blk_finish_storeBlock hu hwf h
  rw [hA, hB, hundo]
  exact read_withBlock_restored hu hwf (t := finishCommand (storeBlock ab s)) rfl rfl x

end Sys2Proof.Machine
end

section
/-! PROOFS. ENC and DEC (spec/43_round.md) and RDS (spec/44_control.md R206). -/

namespace Sys2Proof.Proofs

open Sys2Proof.Machine

/-- Settles O20: A i and B i are the block after i rounds; the block written back is read back, and no other byte
changes. -/
theorem encEncryptsBlock : Obligations.EncEncryptsBlock := by
  intro s hv _ hu hwf
  have hblk := blk_finish_storeBlock hu hwf (encryptBlock_lt (w_le_of_u_le hu) s.sTab s.rounds (blkA s, blkB s))
  let start : Block := (addW s.w (blkA s) (entry s.sTab 0), addW s.w (blkB s) (entry s.sTab 1))
  exact ⟨_, exec_accepted (acceptError_enc_of_svalid hv),
    ⟨fun i => (encRounds s.w s.sTab i start).1, fun i => (encRounds s.w s.sTab i start).2, rfl, rfl,
      fun _ _ => ⟨rfl, rfl⟩, hblk⟩,
    fun _ hx => read_withBlock_of_outside hwf _ _ hx, rfl⟩

/-- Settles O21: A i and B i are the block with the rounds above i undone. -/
theorem decDecryptsBlock : Obligations.DecDecryptsBlock := by
  intro s hv _ hu hwf
  have hblk := blk_finish_storeBlock hu hwf (decryptBlock_lt (w_le_of_u_le hu) s.sTab s.rounds (blkA s, blkB s))
  have hlast := blockBefore_self s.w s.sTab s.rounds (blkA s, blkB s)
  refine ⟨_, exec_accepted (acceptError_dec_of_svalid hv),
    ⟨fun i => (blockBefore s.w s.sTab s.rounds (blkA s, blkB s) i).1,
      fun i => (blockBefore s.w s.sTab s.rounds (blkA s, blkB s) i).2,
      congrArg Prod.fst hlast, congrArg Prod.snd hlast, fun i hi => ?_, ?_⟩,
    fun _ hx => read_withBlock_of_outside hwf _ _ hx, rfl⟩
  · simp only [blockBefore_of_lt s.w s.sTab _ hi]
    exact ⟨rfl, rfl⟩
  · simp only [← decRounds_eq_blockBefore]
    exact hblk

/-- Settles O22: the second command reads the block the first wrote, undoes it by the laws of the rounds, and puts the
first block back. -/
theorem decUndoesEncAndEncUndoesDec : Obligations.DecUndoesEncAndEncUndoesDec := by
  intro s hv _ hu hwf
  have hw := w_le_of_u_le hu
  refine ⟨⟨_, _, exec_accepted (acceptError_enc_of_svalid hv), exec_accepted (acceptError_dec_of_svalid hv), ?_⟩,
    ⟨_, _, exec_accepted (acceptError_dec_of_svalid hv), exec_accepted (acceptError_enc_of_svalid hv), ?_⟩⟩
  · exact read_storeBlock_undone hu hwf (encryptBlock_lt hw s.sTab s.rounds (blkA s, blkB s))
      (decryptBlock s.w s.sTab s.rounds) (decryptBlock_encryptBlock hw s.sTab s.rounds (blk_fits hu))
  · exact read_storeBlock_undone hu hwf (decryptBlock_lt hw s.sTab s.rounds (blkA s, blkB s))
      (encryptBlock s.w s.sTab s.rounds) (encryptBlock_decryptBlock hw s.sTab s.rounds (blk_fits hu))

/-- Settles O23: SOUT is the table entry, and the bytes of its window from u on are above its w bits. -/
theorem rdsReadsTableEntry : Obligations.RdsReadsTableEntry := by
  intro s idx hlegal hu hv hidx hlt
  refine ⟨_, exec_accepted (acceptError_rds_of_inRange hv hidx), rfl, fun k hk => ?_, rfl⟩
  have hwin : windowByte (finishCommand (effect (.rds idx) s)) (0x280 + k) =
      regByte s.params (entry s.sTab idx) k :=
    windowByte_sout (s := finishCommand (readTableEntry idx s)) hlegal.2.1 hk
  rw [hwin, regByte]
  by_cases hku : k < s.u
  · rw [if_pos hku, if_pos (by omega)]
  · have hzero : byteOf (entry s.sTab idx).toNat k = 0 := by
      have hle : 2 ^ s.w ≤ 2 ^ (8 * k) := Nat.pow_le_pow_right (by decide) (by unfold State.w; omega)
      rw [byteOf, Nat.div_eq_of_lt (hlt.trans_le hle)]
      rfl
    rw [if_neg hku, hzero, ite_self]

end Sys2Proof.Proofs
end

section
/-! SUPPORT. The key schedule (spec/42_keysched.md): the packed key as sums of key bytes (R163, R164), the mixing phase on the
entries in use alone (R165), and what each command's effect keeps (spec/44_control.md R202). -/

namespace Sys2Proof.Machine

/-! ### The packed key (R163, R164) -/

theorem entry_packKey {u b ll j : Nat} (hj : j < ll) (key : Nat → Byte) :
    entry (packKey u b ll key) j = packedWord u b key j := by
  simp [entry, packKey, hj]

theorem toNat_packedWord {u : Nat} (hu : u ≤ 32) (b : Nat) (key : Nat → Byte) (j : Nat) :
    (packedWord u b key j).toNat =
      ∑ k ∈ Finset.range u, if j * u + k < b then (key (j * u + k)).toNat * 2 ^ (8 * k) else 0 := by
  rw [packedWord, toNat_wordOfBytes (by simpa using hu), leVal_map_range]
  refine Finset.sum_congr rfl fun k _ => ?_
  split
  · rfl
  · simp

/-- The same over the key bytes the word holds: from j·u up to the end of the word or of the key. -/
theorem toNat_packedWord_eq_sum_Ico {u : Nat} (hu : u ≤ 32) (b : Nat) (key : Nat → Byte) (j : Nat) :
    (packedWord u b key j).toNat =
      ∑ k ∈ Finset.Ico (j * u) (min b ((j + 1) * u)), (key k).toNat * 2 ^ (8 * (k - j * u)) := by
  have hbytes : {k ∈ Finset.range u | j * u + k < b} = Finset.range (min b ((j + 1) * u) - j * u) := by
    ext k
    rw [Finset.mem_filter, Finset.mem_range, Finset.mem_range, Nat.succ_mul]
    omega
  rw [toNat_packedWord hu, ← Finset.sum_filter, hbytes, Finset.sum_Ico_eq_sum_range]
  exact Finset.sum_congr rfl fun k _ => by rw [Nat.add_sub_cancel_left]

theorem leVal_replicate_zero (n : Nat) : leVal (List.replicate n 0#8) = 0 := by
  induction n with
  | zero => rfl
  | succ n ih => rw [List.replicate_succ, leVal, ih]; rfl

theorem packedWord_of_no_key (u : Nat) (key : Nat → Byte) (j : Nat) : packedWord u 0 key j = 0 := by
  simp [packedWord, wordOfBytes, leVal_replicate_zero, wordOfNat]

/-- The packed key reads the key bytes below b only. -/
theorem packKey_congr (u : Nat) {b : Nat} (ll : Nat) {key key' : Nat → Byte} (h : ∀ k < b, key k = key' k) :
    packKey u b ll key = packKey u b ll key' := by
  refine List.map_congr_left fun j _ => congrArg wordOfBytes (List.map_congr_left fun k _ => ?_)
  split
  case isTrue hk => exact h _ hk
  case isFalse => rfl

/-! ### The mixing phase on the entries in use (R165) -/

/-- The tables of phases 1 and 2 alone, with the working values phase 3 starts from. -/
def keyMixing (w u b t ll : Nat) (key : Nat → Byte) : Mixing where
  sTab := initTable w t
  lTab := packKey u b ll key
  work := { a := 0, b := 0, i := 0, j := 0, iter := 0, round := 0 }

/-- The same mixing at the head of longer tables, beside a round counter it does not use. -/
def Mixing.extend (m : Mixing) (x y : List Word) (r : Nat) : Mixing where
  sTab := m.sTab ++ x
  lTab := m.lTab ++ y
  work := { m.work with round := r }

theorem mixStart_eq_extend (s : State) :
    mixStart s = (keyMixing s.w s.u s.b s.t s.llEff (keyByte s)).extend (s.sTab.drop s.t) (s.lTab.drop s.llEff)
      s.work.round := rfl

/-- Tables of exactly the entries in use, with both indices inside them. -/
structure MixShape (t ll : Nat) (m : Mixing) : Prop where
  sTab : m.sTab.length = t
  lTab : m.lTab.length = ll
  i : m.work.i < t
  j : m.work.j < ll

theorem MixShape.step {t ll : Nat} {m : Mixing} (h : MixShape t ll m) (w : Nat) : MixShape t ll (mixStep w t ll m) where
  sTab := (List.length_set ..).trans h.sTab
  lTab := (List.length_set ..).trans h.lTab
  i := Nat.mod_lt _ (Nat.zero_lt_of_lt h.i)
  j := Nat.mod_lt _ (Nat.zero_lt_of_lt h.j)

theorem mixStep_extend {w t ll : Nat} {m : Mixing} (h : MixShape t ll m) (x y : List Word) (r : Nat) :
    mixStep w t ll (m.extend x y r) = (mixStep w t ll m).extend x y r := by
  have hi : m.work.i < m.sTab.length := h.sTab ▸ h.i
  have hj : m.work.j < m.lTab.length := h.lTab ▸ h.j
  simp [mixStep, Mixing.extend, entry_append_left hi, entry_append_left hj, List.set_append_left _ _ hi,
    List.set_append_left _ _ hj]

theorem mixRun_extend {w t ll : Nat} {m : Mixing} (h : MixShape t ll m) (x y : List Word) (r n : Nat) :
    mixRun w t ll n (m.extend x y r) = (mixRun w t ll n m).extend x y r := by
  induction n generalizing m with
  | zero => rfl
  | succ n ih => rw [mixRun, mixRun, mixStep_extend h, ih (h.step w)]

theorem mixRun_succ (w t ll n : Nat) (m : Mixing) : mixRun w t ll (n + 1) m = mixStep w t ll (mixRun w t ll n m) := by
  induction n generalizing m with
  | zero => rfl
  | succ n ih => rw [mixRun, ih, mixRun]

/-- The entries in use and the working words after n iterations of the key schedule of s. -/
def mixed (s : State) (n : Nat) : Mixing :=
  mixRun s.w s.t s.llEff n (keyMixing s.w s.u s.b s.t s.llEff (keyByte s))

section
variable (s : State)

theorem mixed_succ (n : Nat) : mixed s (n + 1) = mixStep s.w s.t s.llEff (mixed s n) := mixRun_succ ..

theorem llEff_pos : 0 < s.llEff := Nat.lt_of_lt_of_le Nat.zero_lt_one (le_max_right _ _)

theorem t_pos : 0 < s.t := Nat.mul_pos (by decide) (Nat.succ_pos _)

theorem mixShape_keyMixing : MixShape s.t s.llEff (keyMixing s.w s.u s.b s.t s.llEff (keyByte s)) where
  sTab := length_initTable ..
  lTab := length_packKey ..
  i := t_pos s
  j := llEff_pos s

theorem mixShape_mixed (n : Nat) : MixShape s.t s.llEff (mixed s n) := by
  induction n with
  | zero => exact mixShape_keyMixing s
  | succ n ih =>
    rw [mixed_succ]
    exact ih.step s.w

/-- The indices run round robin: i = n mod T and j = n mod LL'. -/
theorem mixed_indices (n : Nat) : (mixed s n).work.i = n % s.t ∧ (mixed s n).work.j = n % s.llEff := by
  induction n with
  | zero => exact ⟨(Nat.zero_mod _).symm, (Nat.zero_mod _).symm⟩
  | succ n ih =>
    obtain ⟨hi, hj⟩ := ih
    rw [mixed_succ]
    exact ⟨by simp [mixStep, hi], by simp [mixStep, hj]⟩

theorem mixed_zero_sTab {k : Nat} (hu1 : 1 ≤ s.u) (hu : s.u ≤ 32) (hk : k < s.t) :
    (entry (mixed s 0).sTab k).toNat = ((pConst s.w).toNat + k * (qConst s.w).toNat) % 2 ^ s.w :=
  toNat_entry_initTable (one_le_w hu1) (w_le_of_u_le hu) hk

theorem mixed_zero_lTab {j : Nat} (hu : s.u ≤ 32) (hj : j < s.llEff) :
    (entry (mixed s 0).lTab j).toNat =
      ∑ k ∈ Finset.range s.u, if j * s.u + k < s.b then (keyByte s (j * s.u + k)).toNat * 2 ^ (8 * k) else 0 := by
  rw [← toNat_packedWord hu]
  exact congrArg BitVec.toNat (entry_packKey hj _)

/-- R165's first half: the new A, which replaces the entry of S at n mod T. -/
theorem mixed_succ_a (n : Nat) :
    (mixed s (n + 1)).work.a =
      rotlW s.w (addW s.w (addW s.w (entry (mixed s n).sTab (n % s.t)) (mixed s n).work.a) (mixed s n).work.b) 3 := by
  rw [mixed_succ, ← (mixed_indices s n).1]
  rfl

theorem entry_mixed_succ_sTab (n k : Nat) :
    entry (mixed s (n + 1)).sTab k = if k = n % s.t then (mixed s (n + 1)).work.a else entry (mixed s n).sTab k := by
  have hshape := mixShape_mixed s n
  rw [mixed_succ, ← (mixed_indices s n).1]
  exact entry_set (hshape.sTab ▸ hshape.i) _ k

/-- R165's second half: the new B, which replaces the entry of L at n mod LL'. -/
theorem mixed_succ_b (n : Nat) :
    (mixed s (n + 1)).work.b =
      rotlW s.w
        (addW s.w (addW s.w (entry (mixed s n).lTab (n % s.llEff)) (mixed s (n + 1)).work.a) (mixed s n).work.b)
        (addW s.w (mixed s (n + 1)).work.a (mixed s n).work.b).toNat := by
  rw [mixed_succ, ← (mixed_indices s n).2]
  rfl

theorem entry_mixed_succ_lTab (n k : Nat) :
    entry (mixed s (n + 1)).lTab k =
      if k = n % s.llEff then (mixed s (n + 1)).work.b else entry (mixed s n).lTab k := by
  have hshape := mixShape_mixed s n
  rw [mixed_succ, ← (mixed_indices s n).2]
  exact entry_set (hshape.lTab ▸ hshape.j) _ k

/-! ### The tables after KEYSCHED -/

theorem expandKey_tables :
    (expandKey s).sTab = (mixed s (mixCount s.t s.llEff)).sTab ++ s.sTab.drop s.t ∧
      (expandKey s).lTab = (mixed s (mixCount s.t s.llEff)).lTab ++ s.lTab.drop s.llEff := by
  have h := mixRun_extend (w := s.w) (mixShape_keyMixing s) (s.sTab.drop s.t) (s.lTab.drop s.llEff) s.work.round
    (mixCount s.t s.llEff)
  rw [← mixStart_eq_extend] at h
  exact ⟨congrArg Mixing.sTab h, congrArg Mixing.lTab h⟩

theorem entry_expandKey_sTab {k : Nat} (hk : k < s.t) :
    entry (expandKey s).sTab k = entry (mixed s (mixCount s.t s.llEff)).sTab k := by
  rw [(expandKey_tables s).1, entry_append_left (by rwa [(mixShape_mixed s _).sTab])]

theorem entry_expandKey_lTab {k : Nat} (hk : k < s.llEff) :
    entry (expandKey s).lTab k = entry (mixed s (mixCount s.t s.llEff)).lTab k := by
  rw [(expandKey_tables s).2, entry_append_left (by rwa [(mixShape_mixed s _).lTab])]

end

/-- Past a new head of n entries a table is as it was. -/
theorem entry_append_drop {l : List Word} {n k : Nat} (hl : l.length = n) (hk : n ≤ k) (tab : List Word) :
    entry (l ++ tab.drop n) k = entry tab k := by
  subst hl
  simp [entry, List.getElem?_append_right hk, Nat.add_sub_cancel' hk]

theorem entry_expandKey_sTab_of_ge (s : State) {k : Nat} (hk : s.t ≤ k) :
    entry (expandKey s).sTab k = entry s.sTab k := by
  rw [(expandKey_tables s).1, entry_append_drop (mixShape_mixed s _).sTab hk]

theorem entry_expandKey_lTab_of_ge (s : State) {k : Nat} (hk : s.llEff ≤ k) :
    entry (expandKey s).lTab k = entry s.lTab k := by
  rw [(expandKey_tables s).2, entry_append_drop (mixShape_mixed s _).lTab hk]

/-- The schedule reads w, R, the key length and the key bytes below it (R167). -/
theorem mixed_congr {s s' : State} (hwb : s.status.cfgWB = s'.status.cfgWB) (hr : s.status.cfgR = s'.status.cfgR)
    (hlen : s.keylen = s'.keylen) (hkey : ∀ k < s.b, keyByte s k = keyByte s' k) (n : Nat) :
    mixed s n = mixed s' n := by
  have hu : s.u = s'.u := congrArg BitVec.toNat hwb
  have hb : s.b = s'.b := congrArg BitVec.toNat hlen
  have hw : s.w = s'.w := congrArg (8 * ·) hu
  have ht : s.t = s'.t := congrArg (fun r : BitVec 8 => 2 * (r.toNat + 1)) hr
  have hll : s.llEff = s'.llEff := by rw [State.llEff, State.llEff, hb, hu]
  have hpack : packKey s.u s.b s.llEff (keyByte s) = packKey s.u s.b s.llEff (keyByte s') := packKey_congr _ _ hkey
  rw [mixed, keyMixing, hpack, hw, ht, hll, hu, hb]
  rfl

/-! ### What each effect keeps (spec/44_control.md R202) -/

section
variable {i : Instr} (s : State)

theorem effect_keeps_config (hi : i.mnemonic ≠ "CFG") :
    (effect i s).status.cfgWB = s.status.cfgWB ∧ (effect i s).status.cfgR = s.status.cfgR := by
  cases i
  case cfg => exact absurd rfl hi
  all_goals exact ⟨rfl, rfl⟩

theorem effect_clears_valid (hi : i.mnemonic = "CFG" ∨ i = .zeroize) :
    (effect i s).status.svalid = false ∧ (effect i s).status.pqvalid = false := by
  cases i
  case cfg | zeroize => exact ⟨rfl, rfl⟩
  all_goals simp [Instr.mnemonic] at hi

theorem effect_keeps_valid (hi : i.mnemonic ∈ ["NOP", "ENC", "DEC", "RDS", "CLRERR"]) :
    (effect i s).status.svalid = s.status.svalid ∧ (effect i s).status.pqvalid = s.status.pqvalid := by
  cases i
  case cfg | genpq | keysched | zeroize => simp [Instr.mnemonic] at hi
  all_goals exact ⟨rfl, rfl⟩

theorem effect_keeps_keylen (hi : i ≠ .zeroize) : (effect i s).keylen = s.keylen := by
  cases i
  case zeroize => exact absurd rfl hi
  all_goals rfl

theorem effect_keeps_constants (hi : i ∉ [.genpq, .keysched, .zeroize]) :
    (effect i s).p = s.p ∧ (effect i s).q = s.q := by
  cases i
  case genpq | keysched | zeroize => simp at hi
  all_goals exact ⟨rfl, rfl⟩

theorem effect_keeps_sout (hi : i.mnemonic ≠ "RDS") (hz : i ≠ .zeroize) : (effect i s).sout = s.sout := by
  cases i
  case rds => exact absurd rfl hi
  case zeroize => exact absurd rfl hz
  all_goals rfl

theorem effect_keeps_mem (hi : i ∉ [.enc, .dec, .zeroize]) : (effect i s).mem = s.mem := by
  cases i
  case enc | dec | zeroize => simp at hi
  all_goals rfl

theorem effect_keeps_bytes_outside_block (hi : i ∈ [.enc, .dec]) (hwf : s.mem.wf = true) {a : Nat}
    (ha : a < 0x200 ∨ 0x200 + 2 * s.u ≤ a) : (effect i s).mem.read a = s.mem.read a := by
  rcases List.mem_pair.mp hi with rfl | rfl
  · exact read_withBlock_of_outside hwf _ _ ha
  · exact read_withBlock_of_outside hwf _ _ ha

theorem effect_keeps_work (hi : i ∉ [.keysched, .enc, .dec]) : (effect i s).work = s.work := by
  cases i
  case keysched | enc | dec => simp at hi
  all_goals rfl

end

end Sys2Proof.Machine
end

section
/-! PROOFS. The key schedule (spec/42_keysched.md) and the effects summary (spec/44_control.md R202). -/

namespace Sys2Proof.Proofs

open Sys2Proof.Machine

/-- Settles O16: each word is the little-endian value of its key bytes, and the number of words is a division by u. -/
theorem keyBytesArePacked : Obligations.KeyBytesArePacked := by
  intro u b key hu1 hu
  refine ⟨fun ll j hj => ?_, ceilDiv_le_lmax hu1, ?_⟩
  · rw [entry_packKey hj]
    exact toNat_packedWord_eq_sum_Ico hu b key j
  · rintro rfl rfl
    rfl

/-- Settles O17: without key bytes the division gives 0 words, of which one is kept, and it packs no byte. -/
theorem emptyKeyIsOneZeroWord : Obligations.EmptyKeyIsOneZeroWord := by
  intro s hu
  refine ⟨fun hb => ?_, fun hb => ?_⟩
  · have hll : s.llEff = 1 := by
      rw [State.llEff, ceilDiv, hb, Nat.div_eq_of_lt (by omega)]
      rfl
    refine ⟨hll, ?_, _, exec_accepted (acceptError_keysched_of_fits ?_), rfl, rfl⟩
    · rw [hll, hb]
      exact congrArg (· :: []) (packedWord_of_no_key s.u (keyByte s) 0)
    · exact (show s.keylen.toNat = 0 from hb).trans_le (by decide)
  · have hpos : 1 ≤ (s.b + s.u - 1) / s.u := Nat.div_pos (by omega) hu
    exact ⟨max_eq_left hpos, le_max_right _ _⟩

/-- Settles O18: S n, L n, A n and B n are the mixing of the entries in use, which KEYSCHED runs at the head of its
tables. -/
theorem keyschedExpandsKey : Obligations.KeyschedExpandsKey := by
  intro s hu1 hu hlen _ _ w T LL N
  refine ⟨_, exec_accepted (acceptError_keysched_of_fits hlen),
    ⟨fun n => entry (mixed s n).sTab, fun n => entry (mixed s n).lTab, fun n => (mixed s n).work.a,
      fun n => (mixed s n).work.b, fun _ hk => mixed_zero_sTab s hu1 hu hk, fun _ hj => mixed_zero_lTab s hu hj, rfl, rfl,
      fun n _ => ⟨mixed_succ_a s n, fun k _ => entry_mixed_succ_sTab s n k, mixed_succ_b s n,
        fun k _ => entry_mixed_succ_lTab s n k⟩,
      fun _ hk => entry_expandKey_sTab s hk, fun _ hk => entry_expandKey_lTab s hk⟩,
    fun _ hk => entry_expandKey_sTab_of_ge s hk, fun _ hk => entry_expandKey_lTab_of_ge s hk, rfl⟩

/-- Settles O19: the mixing of the entries in use starts from equal tables, for it packs the key bytes below b only. -/
theorem keyScheduleIsDeterministic : Obligations.KeyScheduleIsDeterministic := by
  intro s s' hwb hr hlen _ hfits _ _ _ _ hkey
  have hmixed := mixed_congr hwb hr hlen hkey
  have hfits' : s'.keylen.toNat ≤ 255 := hlen ▸ hfits
  have ht : s.t = s'.t := congrArg (fun r : BitVec 8 => 2 * (r.toNat + 1)) hr
  have hll : s.llEff = s'.llEff := by simp only [State.llEff, State.b, State.u, hlen, hwb]
  refine ⟨_, _, exec_accepted (acceptError_keysched_of_fits hfits), exec_accepted (acceptError_keysched_of_fits hfits'),
    fun k hk => ?_⟩
  have hx := entry_expandKey_sTab s' (k := k) (ht ▸ hk)
  rw [← hmixed, ← ht, ← hll] at hx
  exact (entry_expandKey_sTab s hk).trans hx.symm

/-- Settles O26: an accepted command is its effect and completion, and each clause is what the effects keep. -/
theorem commandsWriteOnlyTheirState : Obligations.CommandsWriteOnlyTheirState := by
  intro i s t ha hwf hx
  cases (exec_accepted ha).symm.trans hx
  refine ⟨rfl, by simp, by simp, by simp, by simp, by simp, by simp, by simp, effect_keeps_config s,
    effect_clears_valid s, ?keysched, ?genpq, effect_keeps_valid s, fun hi => effect_keeps_record hi s, ?clrerr,
    effect_keeps_keylen s, effect_keeps_constants s, effect_keeps_sout s, ?tables, ?tails,
    fun hi a => congrArg (Memory.read · a) (effect_keeps_mem s hi),
    fun hi _ => effect_keeps_bytes_outside_block s hi hwf, effect_keeps_work s⟩
  case tables =>
    intro hi
    rw [List.mem_pair, not_or] at hi
    exact effect_keeps_tables hi.1 hi.2 s
  case tails =>
    rintro rfl
    exact ⟨fun _ hk => entry_expandKey_sTab_of_ge s hk, fun _ hk => entry_expandKey_lTab_of_ge s hk⟩
  case clrerr =>
    rintro rfl
    exact ⟨rfl, rfl, rfl, rfl⟩
  all_goals
    rintro rfl
    exact ⟨rfl, rfl⟩

end Sys2Proof.Proofs
end
